-- ==== Sys2Proof/Word.lean ====
section
/-! DEFINITION. The word types of the block (spec/00_scope.md R10). -/

namespace Sys2Proof

/-- 8 bits (R10). -/
abbrev Byte := BitVec 8

/-- 16 bits (R10): a Pixel565 value or a coordinate field. -/
abbrev Half := BitVec 16

/-- 32 bits (R10): a register or a command word. -/
abbrev Word := BitVec 32

end Sys2Proof
end

