-- ==== Sys2Proof/Config.lean ====
section
/-! DEFINITION. The implementation parameters of spec/00_scope.md R6, at the values this hardware has (R7: no
other size is specified). The block has no opaque free value: everything the spec leaves open is an input that
arrives in State.agenda (notes/assumptions/1.md and 2.md). -/

namespace Sys2Proof.Config

/-- WIDTH: pixels in a row (R6). -/
abbrev width : Nat := 128

/-- HEIGHT: rows (R6). -/
abbrev height : Nat := 128

/-- BPP: bytes in a pixel (R6). -/
abbrev bytesPerPixel : Nat := 2

/-- FB_BYTES = WIDTH * HEIGHT * BPP (R6, R7). -/
abbrev fbBytes : Nat := 32768

/-- CHUNK_MAX: the most bytes in one transfer (R6). -/
abbrev chunkMax : Nat := 4096

/-- CHUNK_LOG2, the field of PARAMS (spec/10_state.md R25): CHUNK_MAX = 2^12. -/
abbrev chunkLog2 : Nat := 12

/-- PAYLOAD_MAX: the most payload bytes of SENDCMD (R6). -/
abbrev payloadMax : Nat := 16

/-- CLOCK_DEFAULT = 300 * 65536 Hz (R6). -/
abbrev clockDefault : Word := 0x012C0000#32

/-- CONTRAST_MIN (R6). -/
abbrev contrastMin : Int := 0

/-- CONTRAST_MAX (R6). -/
abbrev contrastMax : Int := 255

/-- ADDR_PAYLOAD_COL (R6). -/
abbrev addrPayloadCol : List Byte := [0x00#8, 0x7F#8]

/-- ADDR_PAYLOAD_ROW (R6). -/
abbrev addrPayloadRow : List Byte := [0x00#8, 0x7F#8]

/-- VSCROLL_OPCODE (R6). -/
abbrev vscrollOpcode : Byte := 0xA1#8

/-- The column-range panel opcode (spec/30_encoding.md R126). -/
abbrev columnRangeOpcode : Byte := 0x15#8

/-- The row-range panel opcode (R126). -/
abbrev rowRangeOpcode : Byte := 0x75#8

/-- The data panel opcode (R126). -/
abbrev dataOpcode : Byte := 0x5C#8

/-- The contrast panel opcode (R126). -/
abbrev contrastOpcode : Byte := 0xC1#8

/-- The first host offset of the framebuffer window (spec/20_memory.md R81). -/
abbrev windowBase : Nat := 0x8000

/-- One past the last host offset (R80). -/
abbrev hostSpaceEnd : Nat := 0x10000

end Sys2Proof.Config
end

