-- ==== Sys2Proof/Syntax.lean ====
section
/-! DEFINITION. The thirteen commands of spec/opcode_table.json (spec/30_encoding.md R121). -/

namespace Sys2Proof

/-- One constructor per row of the opcode table. A command word carries no operand (R112): the operands stand in
ARG0, ARG1, COLOR565, PAYLOAD0 to PAYLOAD3 and CLOCK_HZ (R113), so no constructor has a field. -/
inductive Instr where
  | plot
  | line
  | rect
  | fillRect
  | circle
  | fillCircle
  | clear
  | refresh
  | sendcmd
  | contrast
  | vscroll
  | busOpen
  | busClose
  deriving DecidableEq, Repr

end Sys2Proof
end

