-- ==== Sys2Proof/WellFormed.lean ====
section
/-! DEFINITION. What a well-formed command is: of a raw command word, its reserved bits and its code
(spec/30_encoding.md R112, R122); of a command with its operands, the payload length of SENDCMD (R118). Written
from those rules and not from the decoder, so that the decoder can be held against it. -/

namespace Sys2Proof

/-- The codes R122 lists as reserved: 0x00, 0x08 to 0x1F and 0x26 to 0xFF. -/
def reservedCode (c : Byte) : Bool :=
  c.toNat == 0x00 || (0x08 ≤ c.toNat && c.toNat ≤ 0x1F) || 0x26 ≤ c.toNat

/-- R112, R122: RSVD is zero and the code is not reserved. -/
def commandWordWellFormed (w : Word) : Bool :=
  w.extractLsb' 8 24 == 0#24 && !reservedCode (w.extractLsb' 0 8)

/-- R118: the one check on an operand, the payload length ARG0[12:8] of SENDCMD. Every other operand value is legal
(R117, R119, R120). -/
def Instr.wellFormed (i : Instr) (arg0 : Word) : Bool :=
  match i with
  | .sendcmd => (arg0.extractLsb' 8 5).toNat ≤ Config.payloadMax
  | .plot | .line | .rect | .fillRect | .circle | .fillCircle | .clear
  | .refresh | .contrast | .vscroll | .busOpen | .busClose => true

end Sys2Proof
end

