-- ==== Sys2Proof/Decode.lean ====
section
/-! DEFINITION. The command word decoder, total on every 32-bit word, and the encoder (spec/30_encoding.md R112,
R114, R121, R122). The word is written to CMD whole by one 4-byte access, so no byte order arises (spec/20_memory.md
R87; notes/assumptions/4.md). -/

namespace Sys2Proof

/-- Why a command word is rejected (R114). Both reasons set ERR_BADCMD. -/
inductive DecodeReject where
  /-- RSVD, bits 31:8, is not zero (R112). -/
  | reservedBits
  /-- The code is one of R122. -/
  | reservedCode
  deriving DecidableEq, Repr

/-- The command of a code (R121), none for a reserved code (R122). -/
def instrOfCode (c : Byte) : Option Instr :=
  match c.toNat with
  | 0x01 => some .plot
  | 0x02 => some .line
  | 0x03 => some .rect
  | 0x04 => some .fillRect
  | 0x05 => some .circle
  | 0x06 => some .fillCircle
  | 0x07 => some .clear
  | 0x20 => some .refresh
  | 0x21 => some .sendcmd
  | 0x22 => some .contrast
  | 0x23 => some .vscroll
  | 0x24 => some .busOpen
  | 0x25 => some .busClose
  | _ => none

/-- R114's check of a command word: RSVD first, then the code. -/
def decode (w : Word) : Except DecodeReject Instr :=
  if w.extractLsb' 8 24 = 0#24 then
    match instrOfCode (w.extractLsb' 0 8) with
    | some i => .ok i
    | none => .error .reservedCode
  else .error .reservedBits

/-- The code of a command (R121). -/
def codeOf (i : Instr) : Byte :=
  match i with
  | .plot => 0x01#8
  | .line => 0x02#8
  | .rect => 0x03#8
  | .fillRect => 0x04#8
  | .circle => 0x05#8
  | .fillCircle => 0x06#8
  | .clear => 0x07#8
  | .refresh => 0x20#8
  | .sendcmd => 0x21#8
  | .contrast => 0x22#8
  | .vscroll => 0x23#8
  | .busOpen => 0x24#8
  | .busClose => 0x25#8

/-- The command word of a command: its code in bits 7:0 and RSVD = 0 (R112). -/
def encode (i : Instr) : Word := 0#24 ++ codeOf i

/-- The host's entry: the command the decoder reads from a word given as a number, whose bit 0 is the least
significant bit of the command word. The bits above nbits are zero; a number of more than 32 bits is no word. -/
def decodeTableWord (nbits w : Nat) : Option Instr :=
  let v := w % 2 ^ nbits
  if v < 2 ^ 32 then
    match decode (BitVec.ofNat 32 v) with
    | .ok i => some i
    | .error _ => none
  else none

end Sys2Proof
end

