-- ==== Sys2Proof/Machine/State.lean ====
section
/-! DEFINITION. The state of the block (spec/10_state.md R20 to R46) as plain data, the inputs that drive it, and
the state right after reset. -/

namespace Sys2Proof.Machine

/-- The state of an output pin: 0, 1 or Z (R43). -/
inductive Pin where
  | low
  | high
  | released
  deriving DecidableEq, Repr

/-- The Transport agent's answer to a request (spec/42_framer.md R204). -/
inductive Answer where
  | ok
  | fail
  deriving DecidableEq, Repr

/-- The events of the output trace (spec/42_framer.md R201). -/
inductive Event where
  /-- `Rst(v)`: the RST pin changed to v. -/
  | rst (v : Pin)
  /-- `Dc(v)`: the DC pin changed to v. -/
  | dc (v : Pin)
  /-- `Open(clk)`: a transport open request at clk Hz. -/
  | openBus (clk : Word)
  /-- `Xfer(d, bytes)`: a transfer, sent while the DC pin is d, first byte first. -/
  | xfer (d : Pin) (bytes : List Byte)
  /-- `Close`: a transport close request. -/
  | closeBus
  /-- `Ans(o)`: the answer to the outstanding request. -/
  | ans (o : Answer)
  /-- `Reset`: block reset. -/
  | reset
  deriving DecidableEq, Repr

/-- The ten conditions of spec/60_exceptions.md R251, the sticky bits 17:8 of STATUS. -/
inductive Condition where
  | drawDone
  | framerDone
  | refreshOk
  | refreshRejected
  | errTransport
  | errOverrun
  | errBadCmd
  | coordRange
  | warnContrastLo
  | warnContrastHi
  deriving DecidableEq, Repr

/-- A pixel coordinate pair over the integers (spec/00_scope.md R8, R12). -/
structure Point where
  x : Int
  y : Int
  deriving DecidableEq, Repr

/-- A draw command with the operands latched at acceptance (spec/30_encoding.md R113, R115). -/
inductive DrawCmd where
  | plot (x y : Int)
  | line (x0 y0 x1 y1 : Int)
  | rect (x0 y0 w h : Int)
  | fillRect (x0 y0 w h : Int)
  | circle (xc yc r : Int)
  | fillCircle (xc yc r : Int)
  | clear
  deriving DecidableEq, Repr

/-- What the draw engine holds while dbusy = 1 (R41): the latched command, the latched colour c and the progress
index k into the command's point list. The list itself is a function of the command (notes/assumptions/8.md). -/
structure DrawJob where
  cmd : DrawCmd
  color : Half
  k : Nat
  deriving DecidableEq, Repr

/-- A framer command with the operands, payload bytes and clock rate latched at acceptance (spec/30_encoding.md
R113, R115). -/
inductive FramerCmd where
  | refresh
  | sendcmd (op : Byte) (payload : List Byte)
  | contrast (v : Int)
  | vscroll (row : Byte)
  | busOpen (clk : Word)
  | busClose
  deriving DecidableEq, Repr

/-- The request the framer awaits an answer to (spec/42_framer.md R203). -/
inductive Request where
  | openBus
  | xfer
  | closeBus
  deriving DecidableEq, Repr

/-- What the framer holds while fbusy = 1 (R42): the latched command, the progress index m into its
micro-operation list, and the outstanding request. -/
structure FramerJob where
  cmd : FramerCmd
  m : Nat
  pending : Option Request
  deriving DecidableEq, Repr

/-- Where a transfer's bytes come from (spec/42_framer.md R208). -/
inductive ByteSource where
  /-- `Bytes(q)`: bytes latched at acceptance. -/
  | bytes (q : List Byte)
  /-- `FBChunk(j)`: framebuffer bytes 4096j to 4096j + 4095, read when the transfer is issued. -/
  | fbChunk (j : Nat)
  deriving DecidableEq, Repr

/-- The framer's micro-operations (spec/42_framer.md R206). -/
inductive MicroOp where
  | dc (v : Bool)
  | xfer (src : ByteSource)
  | openBus (clk : Word)
  | closeBus
  | done
  deriving DecidableEq, Repr

/-- The access sizes of the host bus port (spec/30_encoding.md R111). -/
inductive Size where
  | one
  | two
  | four
  deriving DecidableEq, Repr

/-- The direction of a host access (spec/30_encoding.md R111). -/
inductive Dir where
  | read
  | write
  deriving DecidableEq, Repr

/-- One host access (spec/30_encoding.md R111). The offset is a number so that an access outside the 16-bit host
space can be written down: it is refused (notes/assumptions/10.md). Of wdata only the low 8n bits count
(notes/assumptions/14.md). -/
structure Access where
  dir : Dir
  offset : Nat
  size : Size
  wdata : Word
  deriving DecidableEq, Repr

/-- The response code of a host access (spec/30_encoding.md R111). -/
inductive Resp where
  | okay
  | busError
  deriving DecidableEq, Repr

/-- The response to a host access: `(resp, rdata)` (spec/30_encoding.md R111). -/
structure Response where
  resp : Resp
  rdata : Word
  deriving DecidableEq, Repr

/-- The registers of the register map (R23). -/
inductive Reg where
  | params
  | ctrl
  | status
  | irqEn
  | clockHz
  | color565
  | colorRgb
  | cursor
  | arg0
  | arg1
  | payload0
  | payload1
  | payload2
  | payload3
  | cmd
  deriving DecidableEq, Repr

/-- One turn of one agent (spec/00_scope.md R3), with the input it brings: a host access, the Transport's answer,
or the framebuffer contents a block reset leaves (any contents, spec/70_reset_and_hazards.md R283). -/
inductive Turn where
  | host (a : Access)
  | draw
  | framer
  | transport (o : Answer)
  | reset (fill : List Host.Cell)
  deriving DecidableEq, Repr

/-- The fields of CTRL (R26). -/
structure Ctrl where
  rstLevel : Bool
  rstOe : Bool
  dcOe : Bool
  deriving DecidableEq, Repr

/-- The state of the block. Registers that have only some bits hold only those (notes/assumptions/15.md). -/
structure State where
  /-- FB (R40): (index, byte) pairs in the canonical form of Memory.wf. -/
  fb : List Host.Cell
  /-- CTRL (R26). -/
  ctrl : Ctrl
  /-- STATUS[17:8] (R28): bit j of the field is STATUS bit j + 8. -/
  sticky : BitVec 10
  /-- IRQ_EN[17:8] (R30). -/
  irqEn : BitVec 10
  /-- CLOCK_HZ (R32). -/
  clockHz : Word
  /-- COLOR565[15:0] (R33). -/
  color565 : Half
  /-- CURSOR (R31): x in bits 15:0, y in bits 31:16. -/
  cursor : Word
  /-- ARG0 (R35). -/
  arg0 : Word
  /-- ARG1 (R36). -/
  arg1 : Word
  /-- PAYLOAD0 (R37). -/
  payload0 : Word
  /-- PAYLOAD1 (R37). -/
  payload1 : Word
  /-- PAYLOAD2 (R37). -/
  payload2 : Word
  /-- PAYLOAD3 (R37). -/
  payload3 : Word
  /-- The draw engine (R41): none is dbusy = 0. -/
  drawJob : Option DrawJob
  /-- The framer's command (R42): none is fbusy = 0. -/
  framerJob : Option FramerJob
  /-- The RefreshGuard (R42). -/
  guard : Bool
  /-- busOpen (R42). -/
  busOpen : Bool
  /-- dcLevel (R42). -/
  dcLevel : Bool
  /-- The output trace, oldest event first (spec/42_framer.md R201). -/
  trace : List Event
  /-- The MODEL's own: the turns still to be taken and their inputs (notes/assumptions/2.md). -/
  agenda : List Turn
  /-- The MODEL's own: the answer to the last host access (notes/assumptions/5.md). -/
  response : Option Response
  deriving DecidableEq, Repr

/-- No step of the block ends in a fault: it has no trap (spec/60_exceptions.md R250), every error is a sticky bit
of STATUS and a refused access is answered on the bus (spec/20_memory.md R82). So there is no constructor. -/
inductive Fault where
  deriving DecidableEq, Repr

/-- Why a step may be refused. -/
inductive Refusal where
  /-- Raised by exec's arm of an instruction that has no meaning yet, and by no arm now. Safe: nothing can be
  proved of a state it does not answer. -/
  | notModelled (mnemonic : String)
  deriving DecidableEq, Repr

/-- The state right after reset (R46, R23). The framebuffer lists nothing (its contents are unspecified,
spec/70_reset_and_hazards.md R283; notes/assumptions/1.md); the trace is empty (notes/assumptions/6.md). -/
def State.reset : State where
  fb := []
  ctrl := { rstLevel := false, rstOe := false, dcOe := false }
  sticky := 0#10
  irqEn := 0#10
  clockHz := Config.clockDefault
  color565 := 0#16
  cursor := 0#32
  arg0 := 0#32
  arg1 := 0#32
  payload0 := 0#32
  payload1 := 0#32
  payload2 := 0#32
  payload3 := 0#32
  drawJob := none
  framerJob := none
  guard := false
  busOpen := false
  dcLevel := true
  trace := []
  agenda := []
  response := none

end Sys2Proof.Machine
end

