-- ==== Sys2Proof/Machine/Flags.lean ====
section
/-! DEFINITION. Every flag computation of the block: the condition codes, the STATUS word, the interrupt output, the
grid test behind COORD_RANGE and the contrast clamp behind the two warnings. -/

namespace Sys2Proof.Machine

/-- The place of a condition among the sticky bits: its STATUS bit number less 8 (spec/60_exceptions.md R251). -/
def Condition.index (c : Condition) : Nat :=
  match c with
  | .drawDone => 0
  | .framerDone => 1
  | .refreshOk => 2
  | .refreshRejected => 3
  | .errTransport => 4
  | .errOverrun => 5
  | .errBadCmd => 6
  | .coordRange => 7
  | .warnContrastLo => 8
  | .warnContrastHi => 9

/-- The cause code of a condition: its STATUS bit number (R251). -/
def Condition.code (c : Condition) : Nat := c.index + 8

/-- The sticky field with only this condition's bit set. -/
def Condition.mask (c : Condition) : BitVec 10 := 1#10 <<< c.index

/-- dbusy, STATUS.DRAW_BUSY (spec/10_state.md R28, R41). -/
def State.dbusy (s : State) : Bool := s.drawJob.isSome

/-- fbusy, STATUS.FRAMER_BUSY (R28, R42). -/
def State.fbusy (s : State) : Bool := s.framerJob.isSome

/-- The request the framer awaits an answer to (R42). -/
def State.pending (s : State) : Option Request := s.framerJob.bind (·.pending)

/-- A condition is recorded in STATUS. -/
def State.has (s : State) (c : Condition) : Bool := s.sticky.getLsbD c.index

/-- STATUS as read (R28): reserved 31:18, the sticky bits 17:8, reserved 7:4, then BUS_OPEN, REFRESH_GUARD,
FRAMER_BUSY and DRAW_BUSY in bits 3 down to 0. -/
def State.statusWord (s : State) : Word :=
  0#14 ++ s.sticky ++ 0#4 ++ BitVec.ofBool s.busOpen ++ BitVec.ofBool s.guard ++ BitVec.ofBool s.fbusy
    ++ BitVec.ofBool s.dbusy

/-- The interrupt output (spec/60_exceptions.md R255): some sticky bit is set and enabled. -/
def State.irq (s : State) : Bool := (s.sticky &&& s.irqEn) != 0#10

/-- The grid (spec/00_scope.md R12): 0 ≤ x < WIDTH and 0 ≤ y < HEIGHT. -/
def Point.onGrid (p : Point) : Bool :=
  (0 ≤ p.x && p.x < (Config.width : Int)) && (0 ≤ p.y && p.y < (Config.height : Int))

/-- The contrast sent for a requested v (spec/42_framer.md R217). -/
def clampContrast (v : Int) : Byte :=
  if v < Config.contrastMin then BitVec.ofInt 8 Config.contrastMin
  else if Config.contrastMax < v then BitVec.ofInt 8 Config.contrastMax
  else BitVec.ofInt 8 v

/-- The warning the clamp sets, if any (R217). -/
def contrastWarning (v : Int) : Option Condition :=
  if v < Config.contrastMin then some .warnContrastLo
  else if Config.contrastMax < v then some .warnContrastHi
  else none

end Sys2Proof.Machine
end

