-- ==== Sys2Proof/Machine/Ops.lean ====
section
/-! DEFINITION. The named operations over framebuffer memory, conditions, pins and the output ports. -/

namespace Sys2Proof.Machine

/-- Framebuffer memory (spec/10_state.md R40): (index, byte) pairs, indices strictly rising, no pair that holds
what an unlisted index reads as. -/
abbrev Memory := List Host.Cell

/-- What an unlisted framebuffer byte reads as. DESIGN CHOICE (notes/assumptions/1.md): the spec leaves the bytes
after reset open (spec/70_reset_and_hazards.md R283), and any other contents are listed. -/
def Memory.unlisted : Byte := 0x00#8

/-- The canonical form, and that every listed index is one of FB (spec/20_memory.md R80). -/
abbrev Memory.wf (m : Memory) : Prop :=
  m.Pairwise (fun a b => a.1 < b.1) ∧ ∀ c ∈ m, c.2 ≠ Memory.unlisted ∧ c.1 < Config.fbBytes

/-- Framebuffer byte i. -/
def Memory.read : Memory → Nat → Byte
  | [], _ => Memory.unlisted
  | (a, b) :: m, i => if a = i then b else Memory.read m i

/-- Framebuffer byte i becomes b. -/
def Memory.write : Memory → Nat → Byte → Memory
  | [], i, b => if b = Memory.unlisted then [] else [(i, b)]
  | (a, c) :: m, i, b =>
    if a < i then (a, c) :: Memory.write m i b
    else if a = i then if b = Memory.unlisted then m else (i, b) :: m
    else if b = Memory.unlisted then (a, c) :: m else (i, b) :: (a, c) :: m

/-- The n bytes from index i as a word, the byte at the lowest index in bits 7:0 (spec/20_memory.md R85). -/
def Memory.readLanes (m : Memory) (i : Nat) : Nat → Word
  | 0 => 0#32
  | n + 1 => (m.read i).setWidth 32 ||| (Memory.readLanes m (i + 1) n <<< 8)

/-- Writes the low n bytes of v from index i, bits 7:0 at the lowest index (R86). -/
def Memory.writeLanes (m : Memory) (i : Nat) : Nat → Word → Memory
  | 0, _ => m
  | n + 1, v => Memory.writeLanes (m.write i (v.setWidth 8)) (i + 1) n (v >>> 8)

/-- `FBRead(i, n)` (spec/00_scope.md R11): the n bytes from index i. -/
def Memory.readBlock (m : Memory) (i n : Nat) : List Byte := (List.range n).map fun j => m.read (i + j)

/-- The canonical memory that holds the listed contents: a later pair of one index wins, and a pair outside FB is
no byte of FB. -/
def Memory.ofCells (cells : List Host.Cell) : Memory :=
  cells.foldl (fun m c => if c.1 < Config.fbBytes then m.write c.1 c.2 else m) []

/-- Records a condition in STATUS: all the block does in place of a trap (spec/60_exceptions.md R250, R251). A bit
already set stays set (R256). -/
def State.raise (s : State) (c : Condition) : State := { s with sticky := s.sticky ||| c.mask }

/-- Clears the conditions whose STATUS bits are 1 in v, the host's write 1 to clear (spec/10_state.md R29): what
stands in place of a return (spec/60_exceptions.md R257). -/
def State.acknowledge (s : State) (v : Word) : State := { s with sticky := s.sticky &&& ~~~(v.extractLsb' 8 10) }

/-- Appends an event to the output trace (spec/42_framer.md R201). -/
def State.emit (s : State) (e : Event) : State := { s with trace := s.trace ++ [e] }

/-- Records the response to a host access (spec/30_encoding.md R111). -/
def State.respond (s : State) (r : Response) : State := { s with response := some r }

/-- A pin driven at a level. -/
def Pin.ofLevel (v : Bool) : Pin := if v then .high else .low

/-- rst_pin (spec/10_state.md R43). -/
def State.rstPin (s : State) : Pin := if s.ctrl.rstOe then Pin.ofLevel s.ctrl.rstLevel else .released

/-- dc_pin (R43). -/
def State.dcPin (s : State) : Pin := if s.ctrl.dcOe then Pin.ofLevel s.dcLevel else .released

/-- Emits the pin events of an action that took the block from `old` to `s`: one for each pin whose effective
state changed, RST before DC (R27, spec/42_framer.md R202). -/
def State.emitPinChanges (s old : State) : State :=
  let t := if s.rstPin = old.rstPin then s else s.emit (.rst s.rstPin)
  if s.dcPin = old.dcPin then t else t.emit (.dc s.dcPin)

/-- CTRL as read (R26): bits 31:3 read 0. -/
def Ctrl.toWord (c : Ctrl) : Word := 0#29 ++ BitVec.ofBool c.dcOe ++ BitVec.ofBool c.rstOe ++ BitVec.ofBool c.rstLevel

/-- The fields of CTRL a host write of v stores (R26): bits 31:3 are ignored. -/
def Ctrl.ofWord (v : Word) : Ctrl :=
  { rstLevel := v.getLsbD 0, rstOe := v.getLsbD 1, dcOe := v.getLsbD 2 }

/-- A host write of CTRL: the fields, then the pin events, in one action (R27). -/
def State.writeCtrl (s : State) (v : Word) : State := { s with ctrl := Ctrl.ofWord v }.emitPinChanges s

/-- The framer's DC level becomes v; a Dc event is emitted if the pin changed (spec/42_framer.md R202, R206). -/
def State.setDcLevel (s : State) (v : Bool) : State := { s with dcLevel := v }.emitPinChanges s

/-- Block reset (spec/70_reset_and_hazards.md R280): every field at its reset value, the framebuffer at the given
contents, the trace kept with a Reset event. What the environment has still to do is no state of the block: the
agenda stays. -/
def State.blockReset (s : State) (fill : List Host.Cell) : State :=
  { State.reset with fb := Memory.ofCells fill, trace := s.trace ++ [.reset], agenda := s.agenda }

/-- The framebuffer index of a point (spec/41_draw.md R151): (x + y * WIDTH) * 2, over the integers. -/
def Point.index (p : Point) : Int := (p.x + p.y * (Config.width : Int)) * 2

/-- The framebuffer write of plot (R151): byte1 at the index of the point and byte2 after it, or nothing if the index
is outside FB. -/
def Memory.writePixel (m : Memory) (p : Point) (c : Half) : Memory :=
  if 0 ≤ p.index ∧ p.index + 1 < (Config.fbBytes : Int) then
    (m.write p.index.toNat (c.extractLsb' 8 8)).write (p.index.toNat + 1) (c.extractLsb' 0 8)
  else m

/-- The pixel write primitive plot(x, y, c) (R151), and COORD_RANGE for every point off the grid, written or dropped
(R152). -/
def State.plot (s : State) (p : Point) (c : Half) : State :=
  let t := if p.onGrid then s else s.raise .coordRange
  { t with fb := Memory.writePixel s.fb p c }

end Sys2Proof.Machine
end

