-- ==== Sys2Proof/Machine/Operands.lean ====
section
/-! DEFINITION. Every operand form: the decode functions of spec/30_encoding.md R117, the operand layouts of R113 as
they are latched at acceptance (R115), and the colour conversion of a COLOR_RGB write (spec/40_color.md R140). -/

namespace Sys2Proof.Machine

/-- s16(f) (R117). -/
def s16 (f : Half) : Int := if f.toNat < 0x8000 then (f.toNat : Int) else (f.toNat : Int) - 0x10000

/-- s32(f) (R117). -/
def s32 (f : Word) : Int := if f.toNat < 0x80000000 then (f.toNat : Int) else (f.toNat : Int) - 0x100000000

/-- s16 of bits 15:0 of an operand register: the x, w or r place of R113. -/
def lowOperand (v : Word) : Int := s16 (v.extractLsb' 0 16)

/-- s16 of bits 31:16 of an operand register: the y or h place of R113. -/
def highOperand (v : Word) : Int := s16 (v.extractLsb' 16 16)

/-- The four bytes of a PAYLOAD register, bits 7:0 first (spec/10_state.md R37). -/
def wordBytes (v : Word) : List Byte :=
  [v.extractLsb' 0 8, v.extractLsb' 8 8, v.extractLsb' 16 8, v.extractLsb' 24 8]

/-- The 16-byte payload buffer (R37): byte j is byte j mod 4 of PAYLOAD(j div 4). -/
def State.payloadBytes (s : State) : List Byte :=
  wordBytes s.payload0 ++ wordBytes s.payload1 ++ wordBytes s.payload2 ++ wordBytes s.payload3

/-- len = ARG0[12:8] of SENDCMD (spec/30_encoding.md R118). -/
def State.payloadLength (s : State) : Nat := (s.arg0.extractLsb' 8 5).toNat

/-- PLOT's operands (R113). -/
def State.plotOperands (s : State) : DrawCmd := .plot (lowOperand s.arg0) (highOperand s.arg0)

/-- LINE's operands (R113). -/
def State.lineOperands (s : State) : DrawCmd :=
  .line (lowOperand s.arg0) (highOperand s.arg0) (lowOperand s.arg1) (highOperand s.arg1)

/-- RECT's operands (R113). -/
def State.rectOperands (s : State) : DrawCmd :=
  .rect (lowOperand s.arg0) (highOperand s.arg0) (lowOperand s.arg1) (highOperand s.arg1)

/-- FILLRECT's operands (R113). -/
def State.fillRectOperands (s : State) : DrawCmd :=
  .fillRect (lowOperand s.arg0) (highOperand s.arg0) (lowOperand s.arg1) (highOperand s.arg1)

/-- CIRCLE's operands (R113): ARG1[31:16] is ignored. -/
def State.circleOperands (s : State) : DrawCmd :=
  .circle (lowOperand s.arg0) (highOperand s.arg0) (lowOperand s.arg1)

/-- FILLCIRCLE's operands (R113). -/
def State.fillCircleOperands (s : State) : DrawCmd :=
  .fillCircle (lowOperand s.arg0) (highOperand s.arg0) (lowOperand s.arg1)

/-- SENDCMD's operands (R113, R118): the opcode ARG0[7:0] and the first len payload bytes. -/
def State.sendcmdOperands (s : State) : FramerCmd :=
  .sendcmd (s.arg0.extractLsb' 0 8) (s.payloadBytes.take s.payloadLength)

/-- CONTRAST's operand (R113, R119). -/
def State.contrastOperands (s : State) : FramerCmd := .contrast (s32 s.arg0)

/-- VSCROLL's operand (R113, R120). -/
def State.vscrollOperands (s : State) : FramerCmd := .vscroll (s.arg0.extractLsb' 0 8)

/-- BUS_OPEN's operand (R113): the clock rate in CLOCK_HZ. -/
def State.busOpenOperands (s : State) : FramerCmd := .busOpen s.clockHz

/-- byte1 of toPanelColor (spec/40_color.md R140). -/
def colorByte1 (r g : Byte) : Byte := (r &&& 0xF8#8) ||| (g >>> 5)

/-- byte2 of toPanelColor (R140). -/
def colorByte2 (g b : Byte) : Byte := ((g &&& 0x1C#8) <<< 3) ||| (b >>> 3)

/-- toPanelColor of the channels of a COLOR_RGB word (R140): {byte1, byte2}, bits 31:24 ignored. -/
def toPanelColor (v : Word) : Half :=
  colorByte1 (v.extractLsb' 16 8) (v.extractLsb' 8 8) ++ colorByte2 (v.extractLsb' 8 8) (v.extractLsb' 0 8)

end Sys2Proof.Machine
end

