-- ==== Sys2Proof/Machine/Points.lean ====
section
/-! DEFINITION. The point lists of the draw commands (spec/41_draw.md): exact integer stepping, no clipping. -/

namespace Sys2Proof.Machine

/-- The loop state of linePoints (R154): the point reached and the doubled error e (R156). -/
structure LineState where
  x : Int
  y : Int
  e : Int
  deriving DecidableEq, Repr

/-- One step of the line loop (R154): both tests read the error as it stood at the start of the step (C1). -/
def lineStep (dx dy sx sy : Int) (t : LineState) : LineState :=
  { x := if t.e > -(2 * dx) then t.x + sx else t.x
    y := if t.e < 2 * dy then t.y + sy else t.y
    e := t.e - (if t.e > -(2 * dx) then 2 * dy else 0) + (if t.e < 2 * dy then 2 * dx else 0) }

/-- The line loop (R154), for at most `fuel` points; it ends at (x1, y1). -/
def lineLoop (dx dy sx sy x1 y1 : Int) : Nat → LineState → List Point
  | 0, _ => []
  | fuel + 1, t =>
    ⟨t.x, t.y⟩ :: if t.x = x1 ∧ t.y = y1 then [] else lineLoop dx dy sx sy x1 y1 fuel (lineStep dx dy sx sy t)

/-- |x1 - x0| of a line: dx, or dy of the other coordinate (R154). -/
def lineDelta (a0 a1 : Int) : Int := ((a1 - a0).natAbs : Int)

/-- The loop state a line starts in (R154): e = dx if dx > dy, else -dy. -/
def lineStart (x0 y0 x1 y1 : Int) : LineState :=
  { x := x0, y := y0
    e := if lineDelta x0 x1 > lineDelta y0 y1 then lineDelta x0 x1 else -lineDelta y0 y1 }

/-- linePoints(x0, y0, x1, y1) (R154). The fuel dx + dy + 1 is never used up, since the list has max(dx, dy) + 1
points (R157; notes/assumptions/9.md). -/
def linePoints (x0 y0 x1 y1 : Int) : List Point :=
  lineLoop (lineDelta x0 x1) (lineDelta y0 y1) (x1 - x0).sign (y1 - y0).sign x1 y1
    ((x1 - x0).natAbs + (y1 - y0).natAbs + 1) (lineStart x0 y0 x1 y1)

/-- RECT's point list (R159): the four sides, each corner twice. -/
def rectPoints (x0 y0 w h : Int) : List Point :=
  linePoints x0 y0 (x0 + w - 1) y0 ++ linePoints (x0 + w - 1) y0 (x0 + w - 1) (y0 + h - 1)
    ++ linePoints (x0 + w - 1) (y0 + h - 1) x0 (y0 + h - 1) ++ linePoints x0 (y0 + h - 1) x0 y0

/-- FILLRECT's point list (R161): rows top to bottom, each left to right; empty if w or h is not positive. -/
def fillRectPoints (x0 y0 w h : Int) : List Point :=
  (List.range h.toNat).flatMap fun j => (List.range w.toNat).map fun i => ⟨x0 + i, y0 + j⟩

/-- The loop state of circleSteps (R162). -/
structure CircleState where
  x : Int
  y : Int
  xChange : Int
  yChange : Int
  radiusError : Int
  deriving DecidableEq, Repr

/-- One iteration of the circle loop after its point is taken (R162). -/
def circleStep (t : CircleState) : CircleState :=
  if 2 * (t.radiusError + t.yChange) + t.xChange > 0 then
    { x := t.x - 1, y := t.y + 1, xChange := t.xChange + 2, yChange := t.yChange + 2
      radiusError := t.radiusError + t.yChange + t.xChange }
  else
    { x := t.x, y := t.y + 1, xChange := t.xChange, yChange := t.yChange + 2
      radiusError := t.radiusError + t.yChange }

/-- The circle loop (R162), for at most `fuel` iterations. -/
def circleLoop : Nat → CircleState → List Point
  | 0, _ => []
  | fuel + 1, t => if t.x ≥ t.y then ⟨t.x, t.y⟩ :: circleLoop fuel (circleStep t) else []

/-- The loop state a circle of radius r starts in (R162). -/
def circleStart (r : Int) : CircleState :=
  { x := r, y := 0, xChange := 1 - 2 * r, yChange := 0, radiusError := 0 }

/-- circleSteps(r) (R162). The loop runs at most r + 1 times (R164; notes/assumptions/9.md). -/
def circleSteps (r : Int) : List Point := circleLoop (r.toNat + 1) (circleStart r)

/-- The eight points of one CIRCLE step, in the order of R163. -/
def octantPoints (xc yc : Int) (q : Point) : List Point :=
  [⟨xc + q.x, yc + q.y⟩, ⟨xc - q.x, yc + q.y⟩, ⟨xc + q.x, yc - q.y⟩, ⟨xc - q.x, yc - q.y⟩,
   ⟨xc + q.y, yc + q.x⟩, ⟨xc - q.y, yc + q.x⟩, ⟨xc + q.y, yc - q.x⟩, ⟨xc - q.y, yc - q.x⟩]

/-- CIRCLE's point list (R163). -/
def circlePoints (xc yc r : Int) : List Point := (circleSteps r).flatMap (octantPoints xc yc)

/-- The four spans of one FILLCIRCLE step (R165). -/
def spanPoints (xc yc : Int) (q : Point) : List Point :=
  linePoints (xc - q.x) (yc + q.y) (xc + q.x) (yc + q.y) ++ linePoints (xc - q.x) (yc - q.y) (xc + q.x) (yc - q.y)
    ++ linePoints (xc - q.y) (yc + q.x) (xc + q.y) (yc + q.x)
    ++ linePoints (xc - q.y) (yc - q.x) (xc + q.y) (yc - q.x)

/-- FILLCIRCLE's point list (R165). -/
def fillCirclePoints (xc yc r : Int) : List Point := (circleSteps r).flatMap (spanPoints xc yc)

/-- CLEAR's point list (R167): every pixel once, in index order. -/
def clearPoints : List Point :=
  (List.range (Config.width * Config.height)).map fun i =>
    ⟨((i % Config.width : Nat) : Int), ((i / Config.width : Nat) : Int)⟩

/-- The point list P of a latched draw command (R150). -/
def DrawCmd.points (cmd : DrawCmd) : List Point :=
  match cmd with
  | .plot x y => [⟨x, y⟩]
  | .line x0 y0 x1 y1 => linePoints x0 y0 x1 y1
  | .rect x0 y0 w h => rectPoints x0 y0 w h
  | .fillRect x0 y0 w h => fillRectPoints x0 y0 w h
  | .circle xc yc r => circlePoints xc yc r
  | .fillCircle xc yc r => fillCirclePoints xc yc r
  | .clear => clearPoints

/-- The colour a command writes (R150): the latched colour, and 0x0000 for CLEAR (R167). -/
def DrawCmd.penColor (cmd : DrawCmd) (c : Half) : Half :=
  match cmd with
  | .clear => 0x0000#16
  | .plot _ _ | .line _ _ _ _ | .rect _ _ _ _ | .fillRect _ _ _ _ | .circle _ _ _ | .fillCircle _ _ _ => c

end Sys2Proof.Machine
end

