-- ==== Sys2Proof/Machine/Draw.lean ====
section
/-! DEFINITION. The draw engine (spec/41_draw.md): acceptance of its seven commands, its plot step and its
completion step. -/

namespace Sys2Proof.Machine

/-- Acceptance or drop at the draw engine (spec/30_encoding.md R115, R116): dropped with ERR_OVERRUN while it is
busy, else latched with the colour of COLOR565 and k = 0. -/
def acceptDraw (cmd : DrawCmd) (s : State) : State :=
  match s.drawJob with
  | some _ => s.raise .errOverrun
  | none => { s with drawJob := some { cmd := cmd, color := s.color565, k := 0 } }

/-- PLOT (R153). -/
def execPlot (s : State) : Host.Outcome State Fault Refusal := .next (acceptDraw s.plotOperands s)

/-- LINE (R155). -/
def execLine (s : State) : Host.Outcome State Fault Refusal := .next (acceptDraw s.lineOperands s)

/-- RECT (R159). -/
def execRect (s : State) : Host.Outcome State Fault Refusal := .next (acceptDraw s.rectOperands s)

/-- FILLRECT (R161). -/
def execFillRect (s : State) : Host.Outcome State Fault Refusal := .next (acceptDraw s.fillRectOperands s)

/-- CIRCLE (R163). -/
def execCircle (s : State) : Host.Outcome State Fault Refusal := .next (acceptDraw s.circleOperands s)

/-- FILLCIRCLE (R165). -/
def execFillCircle (s : State) : Host.Outcome State Fault Refusal := .next (acceptDraw s.fillCircleOperands s)

/-- CLEAR (R167): no operands. -/
def execClear (s : State) : Host.Outcome State Fault Refusal := .next (acceptDraw .clear s)

/-- The completion step (R168): idle, DRAW_DONE, and for CLEAR the cursor at (0, 0). -/
def drawComplete (job : DrawJob) (s : State) : State :=
  let t := { s with drawJob := none }.raise .drawDone
  match job.cmd with
  | .clear => { t with cursor := 0#32 }
  | .plot _ _ | .line _ _ _ _ | .rect _ _ _ _ | .fillRect _ _ _ _ | .circle _ _ _ | .fillCircle _ _ _ => t

/-- One draw-engine step (R150): the next point of the list, or after the last the completion. An idle engine has
no step (notes/assumptions/3.md). -/
def drawStep (s : State) : State :=
  match s.drawJob with
  | none => s
  | some job =>
    match job.cmd.points[job.k]? with
    | some p => { s.plot p (job.cmd.penColor job.color) with drawJob := some { job with k := job.k + 1 } }
    | none => drawComplete job s

end Sys2Proof.Machine
end

