-- ==== Sys2Proof/Machine/Framer.lean ====
section
/-! DEFINITION. The framer (spec/42_framer.md): acceptance of its six commands, its micro-operations, and the
Transport's answers. -/

namespace Sys2Proof.Machine

/-- The payload in chunks of at most CHUNK_MAX bytes, in order (R207). -/
def payloadChunks (p : List Byte) : List (List Byte) :=
  (List.range ((p.length + (Config.chunkMax - 1)) / Config.chunkMax)).map fun j =>
    (p.drop (Config.chunkMax * j)).take Config.chunkMax

/-- The opcode half of frame (R207): DC low, the opcode byte, DC high. -/
def frameOpcode (op : Byte) : List MicroOp := [.dc false, .xfer (.bytes [op]), .dc true]

/-- frame(op, Bytes(p)) (R207). -/
def frameBytes (op : Byte) (p : List Byte) : List MicroOp :=
  frameOpcode op ++ (payloadChunks p).map fun q => .xfer (.bytes q)

/-- frame(0x5C, Frame) (R207): the whole framebuffer in FB_BYTES / CHUNK_MAX chunks. -/
def frameBuffer (op : Byte) : List MicroOp :=
  frameOpcode op ++ (List.range (Config.fbBytes / Config.chunkMax)).map fun j => .xfer (.fbChunk j)

/-- The micro-operation list U of a latched framer command (R211, R213, R218 to R221). -/
def FramerCmd.microOps (cmd : FramerCmd) : List MicroOp :=
  match cmd with
  | .refresh =>
    frameBytes Config.columnRangeOpcode Config.addrPayloadCol ++ frameBytes Config.rowRangeOpcode Config.addrPayloadRow
      ++ frameBuffer Config.dataOpcode ++ [.done]
  | .sendcmd op payload => frameBytes op payload ++ [.done]
  | .contrast v =>
    frameBytes Config.contrastOpcode [clampContrast v, clampContrast v, clampContrast v] ++ [.done]
  | .vscroll row => frameBytes Config.vscrollOpcode [row] ++ [.done]
  | .busOpen clk => [.openBus clk, .done]
  | .busClose => [.closeBus, .done]

/-- The condition a framer command is dropped with (spec/30_encoding.md R116). -/
def FramerCmd.dropCondition (cmd : FramerCmd) : Condition :=
  match cmd with
  | .refresh => .refreshRejected
  | .sendcmd _ _ | .contrast _ | .vscroll _ | .busOpen _ | .busClose => .errOverrun

/-- What acceptance sets beside the latch (spec/30_encoding.md R116): the RefreshGuard of REFRESH (R212) and the
clamp warning of CONTRAST (R217). -/
def FramerCmd.onAccept (cmd : FramerCmd) (s : State) : State :=
  match cmd with
  | .refresh => { s with guard := true }
  | .contrast v =>
    match contrastWarning v with
    | some c => s.raise c
    | none => s
  | .sendcmd _ _ | .vscroll _ | .busOpen _ | .busClose => s

/-- Acceptance or drop at the framer (spec/30_encoding.md R115, R116). -/
def acceptFramer (cmd : FramerCmd) (s : State) : State :=
  match s.framerJob with
  | some _ => s.raise cmd.dropCondition
  | none => cmd.onAccept { s with framerJob := some { cmd := cmd, m := 0, pending := none } }

/-- REFRESH (R213). -/
def execRefresh (s : State) : Host.Outcome State Fault Refusal := .next (acceptFramer .refresh s)

/-- SENDCMD (R211): ERR_BADCMD if len > PAYLOAD_MAX, before the busy check (spec/30_encoding.md R114, R118). -/
def execSendcmd (s : State) : Host.Outcome State Fault Refusal :=
  if s.payloadLength > Config.payloadMax then .next (s.raise .errBadCmd)
  else .next (acceptFramer s.sendcmdOperands s)

/-- CONTRAST (R218). -/
def execContrast (s : State) : Host.Outcome State Fault Refusal := .next (acceptFramer s.contrastOperands s)

/-- VSCROLL (R219). -/
def execVscroll (s : State) : Host.Outcome State Fault Refusal := .next (acceptFramer s.vscrollOperands s)

/-- BUS_OPEN (R220). -/
def execBusOpen (s : State) : Host.Outcome State Fault Refusal := .next (acceptFramer s.busOpenOperands s)

/-- BUS_CLOSE (R221). -/
def execBusClose (s : State) : Host.Outcome State Fault Refusal := .next (acceptFramer .busClose s)

/-- resolve(src) (R208). -/
def ByteSource.resolve (src : ByteSource) (fb : Memory) : List Byte :=
  match src with
  | .bytes q => q
  | .fbChunk j => fb.readBlock (Config.chunkMax * j) Config.chunkMax

/-- abort(ERR_TRANSPORT) (R209). The DC level and busOpen stay. -/
def framerAbort (s : State) : State :=
  ({ s with framerJob := none, guard := false }.raise .errTransport).raise .framerDone

/-- The DONE micro-operation (R210). -/
def framerComplete (cmd : FramerCmd) (s : State) : State :=
  let t := { s with framerJob := none }.raise .framerDone
  match cmd with
  | .refresh => { t with guard := false }.raise .refreshOk
  | .sendcmd _ _ | .contrast _ | .vscroll _ | .busOpen _ | .busClose => t

/-- m advances, with nothing pending (R206). -/
def framerAdvance (job : FramerJob) (s : State) : State :=
  { s with framerJob := some { job with m := job.m + 1, pending := none } }

/-- A request is issued: the event, and the request outstanding (R203, R206). -/
def framerIssue (job : FramerJob) (e : Event) (r : Request) (s : State) : State :=
  { s.emit e with framerJob := some { job with pending := some r } }

/-- One micro-operation (R206). A transfer on a closed bus aborts with no event (R205). -/
def microStep (job : FramerJob) (op : MicroOp) (s : State) : State :=
  match op with
  | .dc v => framerAdvance job (s.setDcLevel v)
  | .xfer src =>
    if s.busOpen then framerIssue job (.xfer s.dcPin (src.resolve s.fb)) .xfer s else framerAbort s
  | .openBus clk => if s.busOpen then framerAdvance job s else framerIssue job (.openBus clk) .openBus s
  | .closeBus =>
    if s.busOpen then framerIssue job .closeBus .closeBus { s with busOpen := false } else framerAdvance job s
  | .done => framerComplete job.cmd s

/-- One framer step (R206), taken while fbusy = 1 and nothing is pending; otherwise the framer has no step
(notes/assumptions/3.md). -/
def framerStep (s : State) : State :=
  match s.framerJob with
  | none => s
  | some job =>
    match job.pending with
    | some _ => s
    | none =>
      match job.cmd.microOps[job.m]? with
      | some op => microStep job op s
      | none => s

/-- The effect an ok answer has beside the advance (R206): the bus is open after an Open. -/
def answerOk (r : Request) (s : State) : State :=
  match r with
  | .openBus => { s with busOpen := true }
  | .xfer => s
  | .closeBus => s

/-- The Transport's answer to the outstanding request (R204), with the framer's reaction in the same action. With
nothing pending the Transport has no step, and a late answer has no effect (spec/70_reset_and_hazards.md R282). -/
def transportStep (o : Answer) (s : State) : State :=
  match s.framerJob with
  | none => s
  | some job =>
    match job.pending with
    | none => s
    | some r =>
      match o with
      | .ok => framerAdvance job (answerOk r (s.emit (.ans .ok)))
      | .fail => framerAbort (s.emit (.ans .fail))

end Sys2Proof.Machine
end

