-- ==== Sys2Proof/Machine/Dispatch.lean ====
section
/-! DEFINITION. One arm per command: the action of a CMD write whose word decodes to it (spec/30_encoding.md R114). -/

namespace Sys2Proof.Machine

def exec (i : Instr) (s : State) : Host.Outcome State Fault Refusal :=
  match i with
  -- the draw engine's commands (spec/41_draw.md)
  | .plot => Sys2Proof.Machine.execPlot s
  | .line => Sys2Proof.Machine.execLine s
  | .rect => Sys2Proof.Machine.execRect s
  | .fillRect => Sys2Proof.Machine.execFillRect s
  | .circle => Sys2Proof.Machine.execCircle s
  | .fillCircle => Sys2Proof.Machine.execFillCircle s
  | .clear => Sys2Proof.Machine.execClear s
  -- the framer's commands (spec/42_framer.md)
  | .refresh => Sys2Proof.Machine.execRefresh s
  | .sendcmd => Sys2Proof.Machine.execSendcmd s
  | .contrast => Sys2Proof.Machine.execContrast s
  | .vscroll => Sys2Proof.Machine.execVscroll s
  | .busOpen => Sys2Proof.Machine.execBusOpen s
  | .busClose => Sys2Proof.Machine.execBusClose s

end Sys2Proof.Machine
end

