-- ==== Sys2Proof/Machine/HostPort.lean ====
section
/-! DEFINITION. The host bus port: the address map, register and window accesses (spec/20_memory.md R80 to R88), and
the turns of the agents. -/

namespace Sys2Proof.Machine

/-- The number of bytes of an access size (spec/30_encoding.md R111). -/
def Size.bytes (n : Size) : Nat :=
  match n with
  | .one => 1
  | .two => 2
  | .four => 4

/-- The register at a host offset (spec/10_state.md R23), none at an unassigned or unaligned offset. -/
def regAt (offset : Nat) : Option Reg :=
  match offset with
  | 0x0000 => some .params
  | 0x0004 => some .ctrl
  | 0x0008 => some .status
  | 0x000C => some .irqEn
  | 0x0010 => some .clockHz
  | 0x0014 => some .color565
  | 0x0018 => some .colorRgb
  | 0x001C => some .cursor
  | 0x0020 => some .arg0
  | 0x0024 => some .arg1
  | 0x0030 => some .payload0
  | 0x0034 => some .payload1
  | 0x0038 => some .payload2
  | 0x003C => some .payload3
  | 0x0040 => some .cmd
  | _ => none

/-- The host offset of a register (R23). -/
def Reg.offset (r : Reg) : Nat :=
  match r with
  | .params => 0x0000
  | .ctrl => 0x0004
  | .status => 0x0008
  | .irqEn => 0x000C
  | .clockHz => 0x0010
  | .color565 => 0x0014
  | .colorRgb => 0x0018
  | .cursor => 0x001C
  | .arg0 => 0x0020
  | .arg1 => 0x0024
  | .payload0 => 0x0030
  | .payload1 => 0x0034
  | .payload2 => 0x0038
  | .payload3 => 0x003C
  | .cmd => 0x0040

/-- What an admitted access reaches: a register, or the framebuffer from an index on. -/
inductive Target where
  | reg (r : Reg)
  | window (i : Nat)
  deriving DecidableEq, Repr

/-- The address map (spec/20_memory.md R81 to R84): none is a refused access. -/
def addressMap (offset : Nat) (n : Size) : Option Target :=
  if Config.windowBase ≤ offset then
    if offset + n.bytes ≤ Config.hostSpaceEnd ∧ offset % n.bytes = 0 then
      some (.window (offset - Config.windowBase))
    else none
  else
    match n with
    | .four => (regAt offset).map .reg
    | .one | .two => none

/-- PARAMS (spec/10_state.md R25): PAYLOAD_MAX, CHUNK_LOG2, BPP, HEIGHT and WIDTH from bit 31 down. -/
def paramsWord : Word :=
  BitVec.ofNat 8 Config.payloadMax ++ BitVec.ofNat 4 Config.chunkLog2 ++ BitVec.ofNat 4 Config.bytesPerPixel
    ++ BitVec.ofNat 8 Config.height ++ BitVec.ofNat 8 Config.width

/-- The value a read of a register returns (spec/20_memory.md R87): reserved bits 0, write-only registers 0. -/
def State.readReg (s : State) (r : Reg) : Word :=
  match r with
  | .params => paramsWord
  | .ctrl => s.ctrl.toWord
  | .status => s.statusWord
  | .irqEn => 0#14 ++ s.irqEn ++ 0#8
  | .clockHz => s.clockHz
  | .color565 => 0#16 ++ s.color565
  | .colorRgb => 0#32
  | .cursor => s.cursor
  | .arg0 => s.arg0
  | .arg1 => s.arg1
  | .payload0 => s.payload0
  | .payload1 => s.payload1
  | .payload2 => s.payload2
  | .payload3 => s.payload3
  | .cmd => 0#32

/-- CMD (spec/30_encoding.md R114): the command of the word, or ERR_BADCMD. -/
def issueCommand (v : Word) (s : State) : Host.Outcome State Fault Refusal :=
  match decode v with
  | .ok i => exec i s
  | .error _ => .next (s.raise .errBadCmd)

/-- A host write of v to a register, with its side effects (spec/20_memory.md R88; spec/10_state.md R24 to R38). -/
def State.writeReg (s : State) (r : Reg) (v : Word) : Host.Outcome State Fault Refusal :=
  match r with
  | .params => .next s
  | .ctrl => .next (s.writeCtrl v)
  | .status => .next (s.acknowledge v)
  | .irqEn => .next { s with irqEn := v.extractLsb' 8 10 }
  | .clockHz => .next { s with clockHz := v &&& 0xFFFF0000#32 }
  | .color565 => .next { s with color565 := v.extractLsb' 0 16 }
  | .colorRgb => .next { s with color565 := toPanelColor v }
  | .cursor => .next { s with cursor := v }
  | .arg0 => .next { s with arg0 := v }
  | .arg1 => .next { s with arg1 := v }
  | .payload0 => .next { s with payload0 := v }
  | .payload1 => .next { s with payload1 := v }
  | .payload2 => .next { s with payload2 := v }
  | .payload3 => .next { s with payload3 := v }
  | .cmd => issueCommand v s

/-- What a read access is answered (spec/20_memory.md R82, R85, R87). -/
def State.readTarget (s : State) (n : Size) (t : Target) : Word :=
  match t with
  | .reg r => s.readReg r
  | .window i => Memory.readLanes s.fb i n.bytes

/-- What a write access does (R86, R88). -/
def State.writeTarget (s : State) (n : Size) (v : Word) (t : Target) : Host.Outcome State Fault Refusal :=
  match t with
  | .reg r => s.writeReg r v
  | .window i => .next { s with fb := Memory.writeLanes s.fb i n.bytes v }

/-- One host access with its response (spec/30_encoding.md R111). A refused access is a bus error: read data 0, no
state changed, no event (spec/20_memory.md R82). -/
def hostAccess (a : Access) (s : State) : Host.Outcome State Fault Refusal :=
  match addressMap a.offset a.size with
  | none => .next (s.respond ⟨.busError, 0#32⟩)
  | some t =>
    match a.dir with
    | .read => .next (s.respond ⟨.okay, s.readTarget a.size t⟩)
    | .write => (s.respond ⟨.okay, 0#32⟩).writeTarget a.size a.wdata t

/-- One turn of one agent (spec/00_scope.md R3, spec/20_memory.md R94). -/
def takeTurn (t : Turn) (s : State) : Host.Outcome State Fault Refusal :=
  match t with
  | .host a => hostAccess a s
  | .draw => .next (drawStep s)
  | .framer => .next (framerStep s)
  | .transport o => .next (transportStep o s)
  | .reset fill => .next (s.blockReset fill)

/-- The turn taken when the agenda names none: the engines run on by themselves, the draw engine while it is busy and
then the framer (which has no step while it is idle or waits). DESIGN CHOICE (notes/assumptions/3.md): the spec leaves
the order free (spec/20_memory.md R94), and an agenda can name any order. -/
def defaultTurn (s : State) : Turn := if s.dbusy then .draw else .framer

/-- The first turn of the agenda is taken, or the default turn if there is none. -/
def nextTurn (s : State) : Host.Outcome State Fault Refusal :=
  match s.agenda with
  | [] => takeTurn (defaultTurn s) s
  | t :: rest => takeTurn t { s with agenda := rest }

/-- The host's write of a command word to CMD (spec/30_encoding.md R129). -/
def commandWrite (v : Word) : Access := { dir := .write, offset := Reg.offset .cmd, size := .four, wdata := v }

/-- The state whose next turn is the host's write of the command word v. -/
def State.withCommand (s : State) (v : Word) : State := { s with agenda := .host (commandWrite v) :: s.agenda }

end Sys2Proof.Machine
end

