-- ==== Sys2Proof/Machine/Step.lean ====
section
/-! DEFINITION. One step of the machine: the next turn of the agenda; and the placing of a command as that turn. -/

namespace Sys2Proof.Machine

/-- One atomic action of one agent (spec/20_memory.md R94). -/
def step (s : State) : Host.Outcome State Fault Refusal := nextTurn s

/-- The state whose very next step issues the command word w: the block fetches nothing (spec/10_state.md R22), so
the word is put first among the turns, as the host's CMD write (notes/assumptions/4.md). -/
def State.withFetchWord (s : State) (nbits w : Nat) : State := s.withCommand (BitVec.ofNat 32 (w % 2 ^ nbits))

end Sys2Proof.Machine
end

