-- ==== Sys2Proof/Machine/HostProgram.lean ====
section
/-! DEFINITION. The host's side as the spec writes it: the notation and the pseudo-instructions of
spec/30_encoding.md R129, R130 and the turn-on and turn-off procedures of spec/70_reset_and_hazards.md R291 to R293.
These bind the host and are no behaviour of the block; they are lists of host accesses, and the host's own control
flow (polling, waiting, stopping) is named and not run. -/

namespace Sys2Proof.Machine

/-- `W <reg>, <value>` (R129). -/
def writeAccess (r : Reg) (v : Word) : Access := { dir := .write, offset := r.offset, size := .four, wdata := v }

/-- `R <reg>` (R129). -/
def readAccess (r : Reg) : Access := { dir := .read, offset := r.offset, size := .four, wdata := 0#32 }

/-- `P(x, y)` (R130): x in bits 15:0, y in bits 31:16. -/
def coordinatePair (x y : Int) : Word := BitVec.ofInt 16 y ++ BitVec.ofInt 16 x

/-- `COLOR r, g, b` (R130). -/
def colorProgram (r g b : Byte) : List Access := [writeAccess .colorRgb (0#8 ++ r ++ g ++ b)]

/-- The accesses that issue a command: its operands, then its word. -/
def commandProgram (i : Instr) (operands : List Access) : List Access := operands ++ [commandWrite (encode i)]

/-- `PLOT x, y` (R130). -/
def plotProgram (x y : Int) : List Access := commandProgram .plot [writeAccess .arg0 (coordinatePair x y)]

/-- The two coordinate operands of LINE, RECT and FILLRECT (R130). -/
def pairOperands (x0 y0 a b : Int) : List Access :=
  [writeAccess .arg0 (coordinatePair x0 y0), writeAccess .arg1 (coordinatePair a b)]

/-- `LINE x0, y0, x1, y1` (R130). -/
def lineProgram (x0 y0 x1 y1 : Int) : List Access := commandProgram .line (pairOperands x0 y0 x1 y1)

/-- `RECT x0, y0, w, h` (R130). -/
def rectProgram (x0 y0 w h : Int) : List Access := commandProgram .rect (pairOperands x0 y0 w h)

/-- `FILLRECT x0, y0, w, h` (R130). -/
def fillRectProgram (x0 y0 w h : Int) : List Access := commandProgram .fillRect (pairOperands x0 y0 w h)

/-- The centre and radius operands of CIRCLE and FILLCIRCLE (R130). -/
def circleOperandWrites (xc yc r : Int) : List Access :=
  [writeAccess .arg0 (coordinatePair xc yc), writeAccess .arg1 (0#16 ++ BitVec.ofInt 16 r)]

/-- `CIRCLE xc, yc, r` (R130). -/
def circleProgram (xc yc r : Int) : List Access := commandProgram .circle (circleOperandWrites xc yc r)

/-- `FILLCIRCLE xc, yc, r` (R130). -/
def fillCircleProgram (xc yc r : Int) : List Access := commandProgram .fillCircle (circleOperandWrites xc yc r)

/-- `CLEAR` (R130). -/
def clearProgram : List Access := commandProgram .clear []

/-- `REFRESH` (R130). -/
def refreshProgram : List Access := commandProgram .refresh []

/-- Up to four payload bytes packed into one PAYLOAD word (spec/10_state.md R37); the bytes not given are 0. -/
def packPayload (bytes : List Byte) : Word :=
  bytes.getD 3 0#8 ++ bytes.getD 2 0#8 ++ bytes.getD 1 0#8 ++ bytes.getD 0 0#8

/-- The PAYLOAD register q. -/
def payloadReg (q : Nat) : Reg :=
  match q with
  | 0 => .payload0
  | 1 => .payload1
  | 2 => .payload2
  | _ => .payload3

/-- A payload of SEND: a list of at most PAYLOAD_MAX = 16 bytes (R118, R130, R291). -/
abbrev SendPayload : Type := { bytes : List Byte // bytes.length ≤ Config.payloadMax }

/-- ARG0 of `SEND op, payload` (R130): `(n << 8) | op`. -/
def sendArg0 (op : Byte) (payload : SendPayload) : Word := 0#16 ++ BitVec.ofNat 8 payload.val.length ++ op

/-- `SEND op, [b0, ..., b(n-1)]` (R130), n ≤ 16: one PAYLOAD write for each q < ceil(n/4), then ARG0 and CMD. -/
def sendProgram (op : Byte) (payload : SendPayload) : List Access :=
  commandProgram .sendcmd
    ((List.range ((payload.val.length + 3) / 4)).map
        (fun q => writeAccess (payloadReg q) (packPayload ((payload.val.drop (4 * q)).take 4)))
      ++ [writeAccess .arg0 (sendArg0 op payload)])

/-- `CONTRAST v` (R130). -/
def contrastProgram (v : Int) : List Access := commandProgram .contrast [writeAccess .arg0 (BitVec.ofInt 32 v)]

/-- `VSCROLL row` (R130). -/
def vscrollProgram (row : Byte) : List Access := commandProgram .vscroll [writeAccess .arg0 (0#24 ++ row)]

/-- `OPEN hz` (R130). -/
def openProgram (hz : Word) : List Access := commandProgram .busOpen [writeAccess .clockHz hz]

/-- `CLOSE` (R130). -/
def closeProgram : List Access := commandProgram .busClose []

/-- One line of a host procedure: an access, or control flow of the host's own (R129, R292). -/
inductive HostLine where
  | access (a : Access)
  /-- `WAITDRAW`. -/
  | waitDraw
  /-- `WAITFRAMER`. -/
  | waitFramer
  /-- Read STATUS and stop if ERR_TRANSPORT. -/
  | stopOnTransportError
  /-- Wait for RESET_PULSE, a parameter of the host with no value in the spec (spec/92_eei_decisions.md D34). -/
  | waitResetPulse
  deriving DecidableEq, Repr

/-- The payloads of the initialisation sequence that the spec leaves as named parameters, each a list of at most 16 bytes (R291, D34). -/
structure InitPayloads where
  clockDiv : SendPayload
  muxRatio : SendPayload
  remap : SendPayload
  startLine : SendPayload
  displayOffset : SendPayload
  gpio : SendPayload
  functionSelect : SendPayload
  precharge : SendPayload
  segLowVoltage : SendPayload
  vcomh : SendPayload
  masterContrast : SendPayload
  precharge2 : SendPayload
  deriving DecidableEq, Repr

/-- A framer command of a procedure: its accesses, then WAITFRAMER and the error check (R292). -/
def awaited (p : List Access) : List HostLine := p.map .access ++ [.waitFramer, .stopOnTransportError]

/-- The initialisation CommandSequence (R291), row by row. -/
def initSequence (p : InitPayloads) (initialContrast : Int := 255) : List (List Access) :=
  [sendProgram 0xFD#8 ⟨[0x12#8], by decide⟩,
   sendProgram 0xFD#8 ⟨[0xB1#8], by decide⟩,
   sendProgram 0xAE#8 ⟨[], by decide⟩,
   sendProgram 0xB3#8 p.clockDiv,
   sendProgram 0xCA#8 p.muxRatio,
   sendProgram 0x15#8 ⟨Config.addrPayloadCol, by decide⟩,
   sendProgram 0x75#8 ⟨Config.addrPayloadRow, by decide⟩,
   sendProgram 0xA0#8 p.remap,
   sendProgram 0xA1#8 p.startLine,
   sendProgram 0xA2#8 p.displayOffset,
   sendProgram 0xB5#8 p.gpio,
   sendProgram 0xAB#8 p.functionSelect,
   sendProgram 0xB1#8 p.precharge,
   sendProgram 0xB4#8 p.segLowVoltage,
   sendProgram 0xBE#8 p.vcomh,
   sendProgram 0xC7#8 p.masterContrast,
   sendProgram 0xB6#8 p.precharge2,
   contrastProgram initialContrast,
   sendProgram 0xAF#8 ⟨[], by decide⟩,
   sendProgram 0xA6#8 ⟨[], by decide⟩,
   vscrollProgram 0x00#8]

/-- The reset pulse of R292 and R293: RST low, the host's wait, RST high. -/
def resetPulse : List HostLine :=
  [.access (writeAccess .ctrl 0x6#32), .waitResetPulse, .access (writeAccess .ctrl 0x7#32)]

/-- The turn-on procedure (R292). -/
def turnOnProcedure (p : InitPayloads) (hz : Word := Config.clockDefault) (initialContrast : Int := 255) : List HostLine :=
  resetPulse ++ awaited (openProgram hz) ++ (initSequence p initialContrast).flatMap awaited
    ++ clearProgram.map .access ++ [.waitDraw]

/-- The turn-off procedure (R293). -/
def turnOffProcedure : List HostLine :=
  resetPulse ++ awaited (sendProgram 0xA4#8 ⟨[], by decide⟩) ++ awaited closeProgram ++ [.access (writeAccess .ctrl 0x0#32)]

end Sys2Proof.Machine
end

