-- ==== Sys2Proof/Safety.lean ====
section
/-! DEFINITION. Runs along a list of turns, the invariants of the block, and the host obligations of
spec/70_reset_and_hazards.md, in the terms the statements use. -/

namespace Sys2Proof.Machine

/-- The machine taken through a list of turns from s. What was still in the agenda of s stays there. -/
def runTurns (ts : List Turn) (s : State) : Host.Outcome State Fault Refusal :=
  Host.Core.run Sys2Proof.core ts.length { s with agenda := ts ++ s.agenda }

/-- A turn is block reset. -/
def Turn.isReset (t : Turn) : Bool :=
  match t with
  | .reset _ => true
  | .host _ | .draw | .framer | .transport _ => false

/-- A turn is the Transport's. -/
def Turn.isTransport (t : Turn) : Bool :=
  match t with
  | .transport _ => true
  | .host _ | .draw | .framer | .reset _ => false

/-- The number of draw-engine turns in a list. -/
def drawTurns (ts : List Turn) : Nat := ts.count .draw

/-- The framer's own step and then an answer to what it issued, once for each answer. -/
def answeredRounds (os : List Answer) : List Turn := os.flatMap fun o => [.framer, .transport o]

/-- The bytes of a transfer event. -/
def Event.transfer (e : Event) : Option (List Byte) :=
  match e with
  | .xfer _ bytes => some bytes
  | .rst _ | .dc _ | .openBus _ | .closeBus | .ans _ | .reset => none

/-- The number of transfers in a trace. -/
def transferCount (tr : List Event) : Nat :=
  tr.countP fun e => match e with
    | .xfer _ _ => true
    | .rst _ | .dc _ | .openBus _ | .closeBus | .ans _ | .reset => false

/-- FB is in canonical form and inside its 32768 bytes (spec/10_state.md R40). -/
def State.FbInv (s : State) : Prop := Memory.wf s.fb

/-- CLOCK_HZ and a latched clock rate are multiples of 65536 (R32). -/
def State.ClockInv (s : State) : Prop :=
  s.clockHz.toNat % 65536 = 0 ∧
    ∀ job clk, s.framerJob = some job → job.cmd = .busOpen clk → clk.toNat % 65536 = 0

/-- 0 ≤ k ≤ |P| (R41). -/
def State.DrawInv (s : State) : Prop := ∀ job, s.drawJob = some job → job.k ≤ job.cmd.points.length

/-- The request a micro-operation issues (spec/42_framer.md R206). -/
def MicroOp.request (op : MicroOp) : Option Request :=
  match op with
  | .xfer _ => some .xfer
  | .openBus _ => some .openBus
  | .closeBus => some .closeBus
  | .dc _ | .done => none

/-- The framer's own invariant: the guard is 1 exactly while a REFRESH runs (R212); a running command has
micro-operation m still to do; an outstanding request is the one that micro-operation issues, and only a transfer is
outstanding on an open bus (R206). -/
def State.FramerInv (s : State) : Prop :=
  (s.guard = true ↔ ∃ job, s.framerJob = some job ∧ job.cmd = .refresh) ∧
    ∀ job, s.framerJob = some job →
      job.m < job.cmd.microOps.length ∧
        ∀ r, job.pending = some r →
          (∃ op, job.cmd.microOps[job.m]? = some op ∧ op.request = some r) ∧ (s.busOpen = true ↔ r = .xfer)

/-- What an observer of the output trace knows of the ports: the two pins, the outstanding request, and whether the
bus is open. -/
structure PortState where
  rst : Pin
  dc : Pin
  awaiting : Option Request
  bus : Bool
  deriving DecidableEq, Repr

/-- The ports after reset (spec/10_state.md R46). -/
def PortState.reset : PortState := { rst := .released, dc := .released, awaiting := none, bus := false }

/-- One event of the trace as the observer reads it; none is an event the spec rules out there: a pin event that
changes nothing (spec/42_framer.md R202), a request while one is outstanding or an answer to none (R203, R204), a
transfer that is empty or too long, that does not carry the DC pin's state (R201), or on a closed bus (R205), an Open
on an open bus or a Close on a closed one (R206). -/
def PortState.observe (p : PortState) (e : Event) : Option PortState :=
  match e with
  | .rst v => if v = p.rst then none else some { p with rst := v }
  | .dc v => if v = p.dc then none else some { p with dc := v }
  | .openBus _ => if p.awaiting = none ∧ p.bus = false then some { p with awaiting := some .openBus } else none
  | .xfer d bytes =>
    if p.awaiting = none ∧ p.bus = true ∧ d = p.dc ∧ 1 ≤ bytes.length ∧ bytes.length ≤ Config.chunkMax then
      some { p with awaiting := some .xfer }
    else none
  | .closeBus =>
    if p.awaiting = none ∧ p.bus = true then some { p with awaiting := some .closeBus, bus := false } else none
  | .ans o =>
    match p.awaiting with
    | none => none
    | some r => some { p with awaiting := none, bus := if r = .openBus ∧ o = .ok then true else p.bus }
  | .reset => some .reset

/-- The ports after a whole trace, from reset on. -/
def observeTrace (tr : List Event) : Option PortState := tr.foldlM PortState.observe .reset

/-- The trace is a legal run of the ports, and what it tells of them is what they are. -/
def State.TraceInv (s : State) : Prop :=
  observeTrace s.trace = some { rst := s.rstPin, dc := s.dcPin, awaiting := s.pending, bus := s.busOpen }

/-- The level the last DC micro-operation of a list sets, if there is one. -/
def lastDcLevel (ops : List MicroOp) : Option Bool :=
  ops.foldl (fun v op => match op with
    | .dc l => some l
    | .xfer _ | .openBus _ | .closeBus | .done => v) none

/-- Every transfer sent with the DC pin low is one byte, an opcode (spec/30_encoding.md R124, R125), and while a
command runs dcLevel is what its last DC micro-operation set. -/
def State.OpcodeInv (s : State) : Prop :=
  (∀ bytes, Event.xfer .low bytes ∈ s.trace → bytes.length = 1) ∧
    ∀ job v, s.framerJob = some job → lastDcLevel (job.cmd.microOps.take job.m) = some v → s.dcLevel = v

/-- The host obligation of spec/70_reset_and_hazards.md R294 at one turn: while the guard is set no draw step is taken
and no window byte is written. -/
def Turn.keepsFrameQuiet (t : Turn) (s : State) : Prop :=
  s.guard = true → t ≠ .draw ∧ ∀ a, t = .host a → a.dir = .write → a.offset < Config.windowBase

end Sys2Proof.Machine
end

