-- ==== Sys2Proof/Certificates/Slice0/Obligations.lean ====
section
/-! DEFINITION. The statements for the provers. Sticky bits are written as masks of STATUS[17:8], bit j for STATUS bit
j + 8: 0x001 DRAW_DONE, 0x002 FRAMER_DONE, 0x004 REFRESH_OK, 0x008 REFRESH_REJECTED, 0x010 ERR_TRANSPORT,
0x020 ERR_OVERRUN, 0x040 ERR_BADCMD, 0x080 COORD_RANGE, 0x100 WARN_CONTRAST_LO, 0x200 WARN_CONTRAST_HI. -/

open Sys2Proof Sys2Proof.Machine

/-! ## Encoding -/

/-- R123: a word decodes to a command exactly when it is that command's word, and the thirteen words are the codes of
R121 with RSVD = 0. -/
def Obligations.DecodeInvertsEncode : Prop :=
  (∀ (w : Word) (i : Instr), decode w = .ok i ↔ w = encode i) ∧
    encode .plot = 0x00000001#32 ∧ encode .line = 0x00000002#32 ∧ encode .rect = 0x00000003#32 ∧
    encode .fillRect = 0x00000004#32 ∧ encode .circle = 0x00000005#32 ∧ encode .fillCircle = 0x00000006#32 ∧
    encode .clear = 0x00000007#32 ∧ encode .refresh = 0x00000020#32 ∧ encode .sendcmd = 0x00000021#32 ∧
    encode .contrast = 0x00000022#32 ∧ encode .vscroll = 0x00000023#32 ∧ encode .busOpen = 0x00000024#32 ∧
    encode .busClose = 0x00000025#32

/-- R112, R122: the decoder accepts exactly the words with RSVD = 0 and a code that is not reserved. -/
def Obligations.DecodeAcceptsExactlyWellFormedWords : Prop :=
  ∀ w : Word, (∃ i, decode w = .ok i) ↔ commandWordWellFormed w = true

/-- Words written out from the table of R121 decode to the commands it gives. -/
def Obligations.DecodeReadsSpecWords : Prop :=
  decode 0x00000001#32 = .ok .plot ∧ decode 0x00000007#32 = .ok .clear ∧ decode 0x00000020#32 = .ok .refresh ∧
    decode 0x00000025#32 = .ok .busClose ∧ decode 0x00000030#32 = .error .reservedCode ∧
    decode 0x80000002#32 = .error .reservedBits

/-- R114: when the next turn is the host's write of a command word to CMD, the step is exec of the decoded command at
the state with that turn taken and the access answered okay; withFetchWord puts exactly that turn there. -/
def Obligations.StepIssuesTheDecodedCommand : Prop :=
  ∀ (s : State) (w : Word) (i : Instr), decode w = .ok i →
    (∀ rest, s.agenda = .host { dir := .write, offset := 0x0040, size := .four, wdata := w } :: rest →
      step s = exec i { s with agenda := rest, response := some ⟨.okay, 0#32⟩ }) ∧
    step (s.withFetchWord 32 w.toNat) = exec i { s with response := some ⟨.okay, 0#32⟩ }

/-- R122: a CMD write of a reserved code (0x00, 0x08 to 0x1F, 0x26 to 0xFF), and one with nonzero RSVD, sets ERR_BADCMD
and has no other effect, whatever the engines do; the access itself is answered okay. -/
def Obligations.ReservedWordRecordsBadCommand : Prop :=
  ∀ (s : State) (w : Word),
    let code := (w.extractLsb' 0 8).toNat
    w.extractLsb' 8 24 ≠ 0#24 ∨ code = 0x00 ∨ (0x08 ≤ code ∧ code ≤ 0x1F) ∨ 0x26 ≤ code →
    hostAccess { dir := .write, offset := 0x0040, size := .four, wdata := w } s =
      .next { s with sticky := s.sticky ||| 0x040#10, response := some ⟨.okay, 0#32⟩ }

/-- R114, R118: SENDCMD with a payload length above 16 sets ERR_BADCMD and has no other effect, busy or not; that is
the one ill-formed command. -/
def Obligations.LongSendcmdRecordsBadCommand : Prop :=
  (∀ s : State, 16 < (s.arg0.extractLsb' 8 5).toNat →
      exec .sendcmd s = .next { s with sticky := s.sticky ||| 0x040#10 }) ∧
    ∀ (i : Instr) (v : Word), i.wellFormed v = false ↔ i = .sendcmd ∧ 16 < (v.extractLsb' 8 5).toNat

/-! ## Acceptance: every command completes its own action -/

/-- R113, R115, R116: an idle draw engine accepts each of its seven commands, with the operands of R113, the colour of
COLOR565 and k = 0; nothing else changes. That CLEAR latches COLOR565 too is the model's reading of R115's general clause
(notes/assumptions/11.md); the value is never used. -/
def Obligations.DrawCommandsAreAccepted : Prop :=
  ∀ s : State, s.drawJob = none →
    let a := (s.arg0.extractLsb' 0 16).toInt
    let b := (s.arg0.extractLsb' 16 16).toInt
    let c := (s.arg1.extractLsb' 0 16).toInt
    let d := (s.arg1.extractLsb' 16 16).toInt
    let accepted (cmd : DrawCmd) : Host.Outcome State Fault Refusal :=
      .next { s with drawJob := some { cmd := cmd, color := s.color565, k := 0 } }
    exec .plot s = accepted (.plot a b) ∧ exec .line s = accepted (.line a b c d) ∧
      exec .rect s = accepted (.rect a b c d) ∧ exec .fillRect s = accepted (.fillRect a b c d) ∧
      exec .circle s = accepted (.circle a b c) ∧ exec .fillCircle s = accepted (.fillCircle a b c) ∧
      exec .clear s = accepted .clear

/-- R113, R115, R116, R212, R217: an idle framer accepts each of its six commands with the operands of R113 and m = 0;
REFRESH sets the guard and CONTRAST at most one warning; nothing else changes. -/
def Obligations.FramerCommandsAreAccepted : Prop :=
  ∀ s : State, s.framerJob = none →
    let len := (s.arg0.extractLsb' 8 5).toNat
    let payloadByte (j : Nat) : Byte :=
      ((if j < 4 then s.payload0 else if j < 8 then s.payload1 else if j < 12 then s.payload2 else s.payload3)
        : Word).extractLsb' (8 * (j % 4)) 8
    let job (cmd : FramerCmd) : Option FramerJob := some { cmd := cmd, m := 0, pending := none }
    exec .refresh s = .next { s with framerJob := job .refresh, guard := true } ∧
      (len ≤ 16 → exec .sendcmd s =
        .next { s with framerJob := job (.sendcmd (s.arg0.extractLsb' 0 8) ((List.range len).map payloadByte)) }) ∧
      exec .contrast s =
        .next { s with
          framerJob := job (.contrast s.arg0.toInt)
          sticky := if s.arg0.toInt < 0 then s.sticky ||| 0x100#10
            else if 255 < s.arg0.toInt then s.sticky ||| 0x200#10 else s.sticky } ∧
      exec .vscroll s = .next { s with framerJob := job (.vscroll (s.arg0.extractLsb' 0 8)) } ∧
      exec .busOpen s = .next { s with framerJob := job (.busOpen s.clockHz) } ∧
      exec .busClose s = .next { s with framerJob := job .busClose }

/-- R116, R215: a command whose engine is busy is dropped: REFRESH_REJECTED for REFRESH, ERR_OVERRUN for every other
one, and nothing else changes. -/
def Obligations.BusyEngineDropsTheCommand : Prop :=
  ∀ s : State,
    (s.drawJob ≠ none → ∀ i ∈ [Instr.plot, .line, .rect, .fillRect, .circle, .fillCircle, .clear],
      exec i s = .next { s with sticky := s.sticky ||| 0x020#10 }) ∧
    (s.framerJob ≠ none →
      exec .refresh s = .next { s with sticky := s.sticky ||| 0x008#10 } ∧
      ((s.arg0.extractLsb' 8 5).toNat ≤ 16 → exec .sendcmd s = .next { s with sticky := s.sticky ||| 0x020#10 }) ∧
      ∀ i ∈ [Instr.contrast, .vscroll, .busOpen, .busClose],
        exec i s = .next { s with sticky := s.sticky ||| 0x020#10 })

/-- The frame of all thirteen commands: acceptance or drop changes no register but STATUS, no framebuffer byte, no pin,
no event, and not the other engine; a running command stays as it is; of STATUS a draw command can set only
ERR_OVERRUN, a framer command only REFRESH_REJECTED, ERR_OVERRUN, ERR_BADCMD and the two warnings. -/
def Obligations.IssueChangesOnlyItsEngine : Prop :=
  ∀ (i : Instr) (s t : State), exec i s = .next t →
    let isDraw := i ∈ [Instr.plot, .line, .rect, .fillRect, .circle, .fillCircle, .clear]
    t = { s with drawJob := t.drawJob, framerJob := t.framerJob, guard := t.guard, sticky := t.sticky } ∧
      (isDraw → t.framerJob = s.framerJob ∧ t.guard = s.guard ∧ t.sticky ||| 0x020#10 = s.sticky ||| 0x020#10) ∧
      (¬ isDraw → t.drawJob = s.drawJob ∧ t.sticky ||| 0x368#10 = s.sticky ||| 0x368#10) ∧
      (i ≠ .refresh → t.guard = s.guard) ∧ t.sticky &&& s.sticky = s.sticky ∧
      (s.drawJob ≠ none → t.drawJob = s.drawJob) ∧ (s.framerJob ≠ none → t.framerJob = s.framerJob)

/-! ## Registers and the host port -/

/-- R23 to R38: what a read of a register returns after a write of v to it, CMD among them; and a read of CMD, in any
state, returns 0 and issues nothing (R38). -/
def Obligations.RegisterWriteThenReadBack : Prop :=
  (∀ (s : State) (v d : Word) (r : Reg),
    ∃ t, runTurns [.host { dir := .write, offset := r.offset, size := .four, wdata := v },
        .host { dir := .read, offset := r.offset, size := .four, wdata := d }] s = .next t ∧
      t.response = some ⟨.okay, match r with
        | .params => 0x10C28080#32
        | .ctrl => v &&& 0x00000007#32
        | .status => s.statusWord &&& ~~~(v &&& 0x0003FF00#32)
        | .irqEn => v &&& 0x0003FF00#32
        | .clockHz => v &&& 0xFFFF0000#32
        | .color565 => v &&& 0x0000FFFF#32
        | .colorRgb => 0#32
        | .cursor | .arg0 | .arg1 | .payload0 | .payload1 | .payload2 | .payload3 => v
        | .cmd => 0#32⟩) ∧
    ∀ (s : State) (d : Word),
      hostAccess { dir := .read, offset := 0x0040, size := .four, wdata := d } s =
        .next { s with response := some ⟨.okay, 0#32⟩ }

/-- R21, R24, R296: a write of a register other than CMD changes no other register (COLOR_RGB writes COLOR565), no
framebuffer byte and neither engine, and emits nothing unless it is CTRL. -/
def Obligations.RegisterWriteLeavesOthersAlone : Prop :=
  ∀ (s t : State) (v : Word) (r : Reg), r ≠ .cmd →
    hostAccess { dir := .write, offset := r.offset, size := .four, wdata := v } s = .next t →
    (∀ q : Reg, q ≠ r → ¬ (r = .colorRgb ∧ q = .color565) → t.readReg q = s.readReg q) ∧
      t.fb = s.fb ∧ t.drawJob = s.drawJob ∧ t.framerJob = s.framerJob ∧ t.guard = s.guard ∧
      t.busOpen = s.busOpen ∧ t.dcLevel = s.dcLevel ∧ t.agenda = s.agenda ∧ (r ≠ .ctrl → t.trace = s.trace)

/-- R29: a write of v to STATUS clears each bit i, 8 ≤ i ≤ 17, with v[i] = 1 and has no other effect (the access is
answered). -/
def Obligations.StatusWriteClearsNamedBits : Prop :=
  ∀ (s : State) (v : Word),
    ∃ t, hostAccess { dir := .write, offset := 0x0008, size := .four, wdata := v } s = .next t ∧
      (∀ i, t.statusWord.getLsbD i = (s.statusWord.getLsbD i && !(decide (8 ≤ i ∧ i ≤ 17) && v.getLsbD i))) ∧
      t = { s with sticky := t.sticky, response := some ⟨.okay, 0#32⟩ }

/-- R81 to R84: an access is a bus error exactly when the map refuses it, and then changes no state, emits nothing and
reads 0; an admitted access is answered okay, and an admitted read changes nothing but the answer (R24, R93). -/
def Obligations.AccessIsRefusedExactlyOffTheMap : Prop :=
  ∀ (s : State) (a : Access),
    let n := a.size.bytes
    let admitted : Prop :=
      (0x8000 ≤ a.offset ∧ a.offset + n ≤ 0x10000 ∧ a.offset % n = 0) ∨
        (n = 4 ∧ (a.offset ≤ 0x0027 ∨ (0x0030 ≤ a.offset ∧ a.offset ≤ 0x0043)) ∧ a.offset % 4 = 0)
    (¬ admitted → hostAccess a s = .next { s with response := some ⟨.busError, 0#32⟩ }) ∧
      (admitted →
        (a.dir = .read → ∃ v, hostAccess a s = .next { s with response := some ⟨.okay, v⟩ }) ∧
        (a.dir = .write → ∃ t, hostAccess a s = .next t ∧ t.response = some ⟨.okay, 0#32⟩))

/-- R28: STATUS bits 3:0 show dbusy, fbusy, the guard and busOpen, bits 17:8 the conditions, and the others read 0. -/
def Obligations.StatusWordShowsLiveAndStickyBits : Prop :=
  ∀ s : State,
    s.statusWord.getLsbD 0 = s.drawJob.isSome ∧ s.statusWord.getLsbD 1 = s.framerJob.isSome ∧
      s.statusWord.getLsbD 2 = s.guard ∧ s.statusWord.getLsbD 3 = s.busOpen ∧
      (∀ i, 8 ≤ i → i ≤ 17 → s.statusWord.getLsbD i = s.sticky.getLsbD (i - 8)) ∧
      ∀ i, (4 ≤ i ∧ i ≤ 7) ∨ 18 ≤ i → s.statusWord.getLsbD i = false

/-- R255: irq is 1 exactly while some STATUS bit i, 8 ≤ i ≤ 17, is set and enabled in IRQ_EN. -/
def Obligations.InterruptLineIsALevel : Prop :=
  ∀ s : State, s.irq = true ↔
    ∃ i, 8 ≤ i ∧ i ≤ 17 ∧ (s.readReg .status).getLsbD i = true ∧ (s.readReg .irqEn).getLsbD i = true

/-- R28, for the whole machine: a condition once recorded stays, until the host writes 1 to its STATUS bit or the block
is reset. -/
def Obligations.StickyBitsFallOnlyByHostOrReset : Prop :=
  ∀ (s t : State) (c : Condition), step s = .next t → s.has c = true → t.has c = false →
    (∃ v rest, s.agenda = .host { dir := .write, offset := 0x0008, size := .four, wdata := v } :: rest ∧
      v.getLsbD c.code = true) ∨
    ∃ fill rest, s.agenda = .reset fill :: rest

/-- R140, R141: a COLOR_RGB write stores byte1 and byte2 of the document's formulas, which is the concatenation
r[7:3], g[7:2], b[7:3], and changes nothing else. -/
def Obligations.ColorWriteConverts : Prop :=
  ∀ (s : State) (v : Word),
    let r := v.extractLsb' 16 8
    let g := v.extractLsb' 8 8
    let b := v.extractLsb' 0 8
    let c : Half := r.extractLsb' 3 5 ++ g.extractLsb' 2 6 ++ b.extractLsb' 3 5
    hostAccess { dir := .write, offset := 0x0018, size := .four, wdata := v } s =
        .next { s with color565 := c, response := some ⟨.okay, 0#32⟩ } ∧
      c = ((r &&& 0xF8#8) ||| (g >>> 5)) ++ (((g &&& 0x1C#8) <<< 3) ||| (b >>> 3))

/-- R142: two colours share a Pixel565 value exactly when they agree in r[7:3], g[7:2] and b[7:3], and every value is
the image of some colour. -/
def Obligations.ColorConversionKeepsOnlyTheTopBits : Prop :=
  (∀ v w : Word, toPanelColor v = toPanelColor w ↔
      v.extractLsb' 19 5 = w.extractLsb' 19 5 ∧ v.extractLsb' 10 6 = w.extractLsb' 10 6 ∧
        v.extractLsb' 3 5 = w.extractLsb' 3 5) ∧
    ∀ c : Half, ∃ v : Word, toPanelColor v = c

/-- R27, R43: a CTRL write sets the pins, and emits an event for each pin whose state changed, RST before DC. -/
def Obligations.CtrlWriteEmitsPinChanges : Prop :=
  ∀ (s : State) (v : Word),
    let rst : Pin := if v.getLsbD 1 then (if v.getLsbD 0 then .high else .low) else .released
    let dc : Pin := if v.getLsbD 2 then (if s.dcLevel then .high else .low) else .released
    ∃ t, hostAccess { dir := .write, offset := 0x0004, size := .four, wdata := v } s = .next t ∧
      t.rstPin = rst ∧ t.dcPin = dc ∧
      t = { s with
        ctrl := t.ctrl
        trace := s.trace ++ (if rst = s.rstPin then [] else [.rst rst]) ++ (if dc = s.dcPin then [] else [.dc dc])
        response := some ⟨.okay, 0#32⟩ }

/-! ## The framebuffer window -/

/-- R85: an admitted window read returns the sum of FB[i + j] << 8j. -/
def Obligations.WindowReadReturnsLanes : Prop :=
  ∀ (s : State) (a : Nat) (n : Size) (d : Word),
    0x8000 ≤ a → a + n.bytes ≤ 0x10000 → a % n.bytes = 0 →
    ∃ w, hostAccess { dir := .read, offset := a, size := n, wdata := d } s =
        .next { s with response := some ⟨.okay, w⟩ } ∧
      w.toNat = ∑ j ∈ Finset.range n.bytes, (Memory.read s.fb (a - 0x8000 + j)).toNat <<< (8 * j)

/-- R86: an admitted window write stores byte j of the value at FB[i + j], and changes nothing else. -/
def Obligations.WindowWriteStoresLanes : Prop :=
  ∀ (s : State) (a : Nat) (n : Size) (v : Word), s.FbInv →
    0x8000 ≤ a → a + n.bytes ≤ 0x10000 → a % n.bytes = 0 →
    ∃ t, hostAccess { dir := .write, offset := a, size := n, wdata := v } s = .next t ∧
      t = { s with fb := t.fb, response := some ⟨.okay, 0#32⟩ } ∧
      ∀ k, Memory.read t.fb k =
        if a - 0x8000 ≤ k ∧ k < a - 0x8000 + n.bytes then v.extractLsb' (8 * (k - (a - 0x8000))) 8
        else Memory.read s.fb k

/-! ## The draw engine -/

/-- R151, R152: plot writes byte1 and byte2 at the index of the point if that is inside FB, and no other byte; it sets
COORD_RANGE exactly if the point is off the grid, and changes nothing else. -/
def Obligations.PlotWritesThePixelItsIndexNames : Prop :=
  ∀ (s : State) (p : Point) (c : Half), s.FbInv →
    let i : Int := (p.x + p.y * 128) * 2
    (∀ k : Nat, k < 32768 → Memory.read (s.plot p c).fb k =
        if (k : Int) = i then c.extractLsb' 8 8 else if (k : Int) = i + 1 then c.extractLsb' 0 8
        else Memory.read s.fb k) ∧
      s.plot p c = { s with
        fb := (s.plot p c).fb
        sticky := if 0 ≤ p.x ∧ p.x < 128 ∧ 0 ≤ p.y ∧ p.y < 128 then s.sticky else s.sticky ||| 0x080#10 } ∧
      (i < 0 ∨ 32768 ≤ i → (s.plot p c).fb = s.fb)

/-- R89: a plotted pixel of the grid read back through the window: byte1, byte2, and as a halfword its bytes swapped; and
a halfword write of the colour with its bytes swapped leaves the framebuffer that the plot leaves. -/
def Obligations.PlottedPixelReadsBackSwapped : Prop :=
  ∀ (s : State) (x y : Nat) (c : Half) (d : Word), s.FbInv → x < 128 → y < 128 →
    let t := s.plot ⟨x, y⟩ c
    let a := 0x8000 + 2 * (x + 128 * y)
    let swapped : Word := 0#16 ++ (c.extractLsb' 0 8 ++ c.extractLsb' 8 8)
    hostAccess { dir := .read, offset := a, size := .one, wdata := d } t =
        .next { t with response := some ⟨.okay, (c.extractLsb' 8 8).setWidth 32⟩ } ∧
      hostAccess { dir := .read, offset := a + 1, size := .one, wdata := d } t =
        .next { t with response := some ⟨.okay, (c.extractLsb' 0 8).setWidth 32⟩ } ∧
      hostAccess { dir := .read, offset := a, size := .two, wdata := d } t =
        .next { t with response := some ⟨.okay, swapped⟩ } ∧
      hostAccess { dir := .write, offset := a, size := .two, wdata := swapped } s =
        .next { s with fb := t.fb, response := some ⟨.okay, 0#32⟩ }

/-- R150, R168, R170: a draw command ends after |P| + 1 draw turns: its points plotted in order in its one colour
(0x0000 for CLEAR), DRAW_DONE set, the engine idle, and for CLEAR the cursor 0. -/
def Obligations.DrawCommandRunsToCompletion : Prop :=
  ∀ (s : State) (cmd : DrawCmd) (c : Half), s.drawJob = some { cmd := cmd, color := c, k := 0 } →
    let pen : Half := if cmd = .clear then 0x0000#16 else c
    let drawn := cmd.points.foldl (fun t p => t.plot p pen) s
    runTurns (List.replicate (cmd.points.length + 1) .draw) s =
      .next { s with
        fb := drawn.fb
        sticky := drawn.sticky ||| 0x001#10
        cursor := if cmd = .clear then 0#32 else s.cursor
        drawJob := none }

/-- R22, R94, R302: under every interleaving without a reset, the index k of a running draw command counts the draw
engine's own turns, whatever the other agents do. -/
def Obligations.DrawIndexCountsDrawTurns : Prop :=
  ∀ (ts : List Turn) (s t : State) (job : DrawJob), s.drawJob = some job →
    (∀ u ∈ ts, u.isReset = false) → job.k + drawTurns ts ≤ job.cmd.points.length →
    runTurns ts s = .next t →
    t.drawJob = some { job with k := job.k + drawTurns ts }

/-- R170, R301: under every interleaving without a reset that gives the draw engine enough turns, a running draw command
ends: after some prefix the engine is idle with DRAW_DONE set. -/
def Obligations.DrawCommandEndsUnderEveryInterleaving : Prop :=
  ∀ (ts : List Turn) (s : State) (job : DrawJob), s.drawJob = some job →
    (∀ u ∈ ts, u.isReset = false) → job.cmd.points.length + 1 ≤ job.k + drawTurns ts → job.k ≤ job.cmd.points.length →
    ∃ n t, n ≤ ts.length ∧ runTurns (ts.take n) s = .next t ∧ t.drawJob = none ∧ t.has .drawDone = true

/-- R169: a draw turn changes only FB, COORD_RANGE, DRAW_DONE, the draw engine and, when a CLEAR completes, CURSOR; of
FB only the two bytes at the index of the point it plots, and none when it completes; an idle engine changes nothing. -/
def Obligations.DrawTurnChangesOnlyItsOwn : Prop :=
  ∀ s t : State, s.FbInv → runTurns [.draw] s = .next t →
    t = { s with fb := t.fb, sticky := t.sticky, drawJob := t.drawJob, cursor := t.cursor } ∧
      t.sticky ||| 0x081#10 = s.sticky ||| 0x081#10 ∧ t.sticky &&& s.sticky = s.sticky ∧
      (t.cursor ≠ s.cursor → t.cursor = 0#32 ∧ ∃ job, s.drawJob = some job ∧ job.cmd = .clear ∧ t.drawJob = none) ∧
      (∀ job p, s.drawJob = some job → job.cmd.points[job.k]? = some p →
        ∀ k : Nat, k < 32768 → (k : Int) ≠ p.index → (k : Int) ≠ p.index + 1 →
          Memory.read t.fb k = Memory.read s.fb k) ∧
      (∀ job, s.drawJob = some job → job.cmd.points[job.k]? = none → t.fb = s.fb) ∧ (s.drawJob = none → t = s)

/-- R157: the laws of a line, for every pair of endpoints: it ends at (x1, y1) after max(dx, dy) + 1 points, starts at
(x0, y0), moves by at most 1 in each coordinate and always moves, monotonically in the directions of sx and sy, and the
doubled error stays within 2 max(dx, dy). -/
def Obligations.LineKeepsItsLaws : Prop :=
  ∀ x0 y0 x1 y1 : Int,
    let dx := lineDelta x0 x1
    let dy := lineDelta y0 y1
    let sx := (x1 - x0).sign
    let sy := (y1 - y0).sign
    let P := linePoints x0 y0 x1 y1
    (P.length : Int) = max dx dy + 1 ∧ P.head? = some ⟨x0, y0⟩ ∧ P.getLast? = some ⟨x1, y1⟩ ∧
      (∀ (i : Nat) (p q : Point), P[i]? = some p → P[i + 1]? = some q →
        p ≠ q ∧ (q.x = p.x ∨ q.x = p.x + sx) ∧ (q.y = p.y ∨ q.y = p.y + sy)) ∧
      ∀ i : Nat, (i : Int) ≤ max dx dy →
        let t := (lineStep dx dy sx sy)^[i] (lineStart x0 y0 x1 y1)
        P[i]? = some ⟨t.x, t.y⟩ ∧ -(2 * max dx dy) ≤ t.e ∧ t.e ≤ 2 * max dx dy

/-- R158: a horizontal or a vertical line is the run of its pixels, in its direction. -/
def Obligations.StraightLinesAreRuns : Prop :=
  ∀ (a b : Int) (n : Nat),
    linePoints a b (a + n) b = (List.range (n + 1)).map (fun i : Nat => (⟨a + (i : Int), b⟩ : Point)) ∧
      linePoints a b (a - n) b = (List.range (n + 1)).map (fun i : Nat => (⟨a - (i : Int), b⟩ : Point)) ∧
      linePoints a b a (b + n) = (List.range (n + 1)).map (fun i : Nat => (⟨a, b + (i : Int)⟩ : Point)) ∧
      linePoints a b a (b - n) = (List.range (n + 1)).map (fun i : Nat => (⟨a, b - (i : Int)⟩ : Point))

/-- R159, R160: RECT joins its four corners for every w and h, positive or not: its points are exactly the border of the
rectangle between the corners (x0, y0) and (x0 + w - 1, y0 + h - 1), with |w - 1| + 1 of each horizontal side and
|h - 1| + 1 of each vertical one; for w, h ≥ 1 that is 2(w + h) writes. -/
def Obligations.RectOutlinesItsBorder : Prop :=
  ∀ x0 y0 w h : Int,
    let x1 := x0 + w - 1
    let y1 := y0 + h - 1
    ((rectPoints x0 y0 w h).length : Int) = 2 * (|w - 1| + 1) + 2 * (|h - 1| + 1) ∧
      (1 ≤ w → 1 ≤ h → ((rectPoints x0 y0 w h).length : Int) = 2 * (w + h)) ∧
      ∀ p : Point, p ∈ rectPoints x0 y0 w h ↔
        (min x0 x1 ≤ p.x ∧ p.x ≤ max x0 x1 ∧ min y0 y1 ≤ p.y ∧ p.y ≤ max y0 y1) ∧
          (p.x = x0 ∨ p.x = x1 ∨ p.y = y0 ∨ p.y = y1)

/-- R161: FILLRECT visits each pixel of [x0, x0+w) × [y0, y0+h) once, rows top to bottom and each left to right, and
none if w or h is not positive. -/
def Obligations.FillRectVisitsRowsInOrder : Prop :=
  ∀ x0 y0 w h : Int,
    (fillRectPoints x0 y0 w h).length = w.toNat * h.toNat ∧
      (∀ i j : Nat, i < w.toNat → j < h.toNat →
        (fillRectPoints x0 y0 w h)[j * w.toNat + i]? = some ⟨x0 + i, y0 + j⟩) ∧
      (fillRectPoints x0 y0 w h).Nodup

/-- R162, R164: circleSteps of a negative radius is empty; otherwise it starts at (r, 0), step i has y = i and
0 ≤ y ≤ x ≤ r, there are at most r + 1 of them, and the loop ends because x < y. -/
def Obligations.CircleStepsStayInTheOctant : Prop :=
  ∀ r : Int, (r < 0 → circleSteps r = []) ∧
    (0 ≤ r →
      (circleSteps r).head? = some ⟨r, 0⟩ ∧ ((circleSteps r).length : Int) ≤ r + 1 ∧
        (∀ (i : Nat) (q : Point), (circleSteps r)[i]? = some q → q.y = i ∧ 0 ≤ q.y ∧ q.y ≤ q.x ∧ q.x ≤ r) ∧
        let t := circleStep^[(circleSteps r).length] (circleStart r)
        t.x < t.y)

/-- R163: CIRCLE's points are symmetric in both axes and in the diagonal through the centre. -/
def Obligations.CirclePointsAreSymmetric : Prop :=
  ∀ (xc yc r : Int) (p : Point), p ∈ circlePoints xc yc r →
    (⟨2 * xc - p.x, p.y⟩ : Point) ∈ circlePoints xc yc r ∧ (⟨p.x, 2 * yc - p.y⟩ : Point) ∈ circlePoints xc yc r ∧
      (⟨xc + (p.y - yc), yc + (p.x - xc)⟩ : Point) ∈ circlePoints xc yc r

/-- R165, R166: FILLCIRCLE's points are exactly those of the four spans of its steps. -/
def Obligations.FillCircleCoversItsSpans : Prop :=
  ∀ (xc yc r : Int) (p : Point), p ∈ fillCirclePoints xc yc r ↔
    ∃ q ∈ circleSteps r,
      (xc - q.x ≤ p.x ∧ p.x ≤ xc + q.x ∧ (p.y = yc + q.y ∨ p.y = yc - q.y)) ∨
        (xc - q.y ≤ p.x ∧ p.x ≤ xc + q.y ∧ (p.y = yc + q.x ∨ p.y = yc - q.x))

/-- R167: CLEAR's 16385 draw turns leave every byte of FB 0x00 and the cursor (0, 0), set DRAW_DONE and change nothing
else: not COLOR565, not COORD_RANGE. -/
def Obligations.ClearZeroesTheFramebuffer : Prop :=
  ∀ (s : State) (c : Half), s.FbInv → s.drawJob = some { cmd := .clear, color := c, k := 0 } →
    ∃ t, runTurns (List.replicate 16385 .draw) s = .next t ∧
      (∀ i, i < 32768 → Memory.read t.fb i = 0x00#8) ∧
      t = { s with fb := t.fb, cursor := 0#32, sticky := s.sticky ||| 0x001#10, drawJob := none }

/-- R161, R151: FILLRECT of a rectangle on the grid gives its pixels the colour, leaves every other pixel as it was, and
leaves COORD_RANGE alone. -/
def Obligations.FillRectPaintsTheRectangle : Prop :=
  ∀ (s : State) (x0 y0 w h : Int) (c : Half), s.FbInv →
    s.drawJob = some { cmd := .fillRect x0 y0 w h, color := c, k := 0 } →
    0 ≤ x0 → 0 ≤ y0 → x0 + w ≤ 128 → y0 + h ≤ 128 →
    ∃ t, runTurns (List.replicate (w.toNat * h.toNat + 1) .draw) s = .next t ∧
      (∀ x y : Nat, x < 128 → y < 128 →
        let i := 2 * (x + 128 * y)
        let inside := x0 ≤ x ∧ (x : Int) < x0 + w ∧ y0 ≤ y ∧ (y : Int) < y0 + h
        (inside → Memory.read t.fb i = c.extractLsb' 8 8 ∧ Memory.read t.fb (i + 1) = c.extractLsb' 0 8) ∧
          (¬ inside → Memory.read t.fb i = Memory.read s.fb i ∧
            Memory.read t.fb (i + 1) = Memory.read s.fb (i + 1))) ∧
      t = { s with fb := t.fb, sticky := s.sticky ||| 0x001#10, drawJob := none }

/-! ## The framer -/

/-- R211, R202, R299: SENDCMD on an open bus, every request answered ok: the opcode with DC low, then the payload, if any,
in one transfer with DC high. With the DC pin released the same bytes go out as Xfer(Z, ...) and no Dc event is emitted. -/
def Obligations.SendcmdSendsOneFrame : Prop :=
  ∀ (s : State) (op : Byte) (payload : List Byte),
    s.framerJob = some { cmd := .sendcmd op payload, m := 0, pending := none } → payload.length ≤ 16 →
    s.busOpen = true →
    let dcLow : Pin := if s.ctrl.dcOe then .low else .released
    let dcHigh : Pin := if s.ctrl.dcOe then .high else .released
    runTurns (answeredRounds (List.replicate 5 .ok)) s =
      .next { s with
        framerJob := none
        sticky := s.sticky ||| 0x002#10
        dcLevel := true
        trace := s.trace ++ (if s.ctrl.dcOe && s.dcLevel then [.dc .low] else []) ++ [.xfer dcLow [op], .ans .ok]
          ++ (if s.ctrl.dcOe then [.dc .high] else [])
          ++ (if payload = [] then [] else [.xfer dcHigh payload, .ans .ok]) }

/-- R217 to R219, R202, R299: CONTRAST sends 0xC1 and the clamped value three times, VSCROLL 0xA1 and the row, each as one
frame; with the DC pin released as Xfer(Z, ...) and without Dc events. -/
def Obligations.ContrastAndVscrollSendTheirFrames : Prop :=
  ∀ s : State, s.busOpen = true →
    let dcLow : Pin := if s.ctrl.dcOe then .low else .released
    let dcHigh : Pin := if s.ctrl.dcOe then .high else .released
    let framed (op : Byte) (payload : List Byte) : Host.Outcome State Fault Refusal :=
      .next { s with
        framerJob := none
        sticky := s.sticky ||| 0x002#10
        dcLevel := true
        trace := s.trace ++ (if s.ctrl.dcOe && s.dcLevel then [.dc .low] else []) ++ [.xfer dcLow [op], .ans .ok]
          ++ (if s.ctrl.dcOe then [.dc .high] else []) ++ [.xfer dcHigh payload, .ans .ok] }
    (∀ v : Int, s.framerJob = some { cmd := .contrast v, m := 0, pending := none } →
      let b : Byte := if v < 0 then 0#8 else if 255 < v then 255#8 else BitVec.ofNat 8 v.toNat
      runTurns (answeredRounds (List.replicate 5 .ok)) s = framed 0xC1#8 [b, b, b]) ∧
    ∀ row : Byte, s.framerJob = some { cmd := .vscroll row, m := 0, pending := none } →
      runTurns (answeredRounds (List.replicate 5 .ok)) s = framed 0xA1#8 [row]

/-- R220: BUS_OPEN does nothing on an open bus; on a closed one it requests an open at the latched clock rate, which
opens the bus if it is answered ok and otherwise aborts with the bus closed. -/
def Obligations.BusOpenOpensTheBus : Prop :=
  ∀ (s : State) (clk : Word), s.framerJob = some { cmd := .busOpen clk, m := 0, pending := none } →
    (s.busOpen = true → ∀ o, runTurns (answeredRounds [o, o]) s =
      .next { s with framerJob := none, sticky := s.sticky ||| 0x002#10 }) ∧
    (s.busOpen = false →
      runTurns (answeredRounds [.ok, .ok]) s =
          .next { s with
            framerJob := none
            sticky := s.sticky ||| 0x002#10
            busOpen := true
            trace := s.trace ++ [.openBus clk, .ans .ok] } ∧
        runTurns (answeredRounds [.fail]) s =
          .next { s with
            framerJob := none
            sticky := s.sticky ||| 0x012#10
            guard := false
            trace := s.trace ++ [.openBus clk, .ans .fail] })

/-- R221: BUS_CLOSE does nothing on a closed bus; on an open one it requests a close and the bus is closed from then on,
whatever the answer; a fail aborts. -/
def Obligations.BusCloseClosesTheBus : Prop :=
  ∀ s : State, s.framerJob = some { cmd := .busClose, m := 0, pending := none } →
    (s.busOpen = false → ∀ o, runTurns (answeredRounds [o, o]) s =
      .next { s with framerJob := none, sticky := s.sticky ||| 0x002#10 }) ∧
    (s.busOpen = true →
      runTurns (answeredRounds [.ok, .ok]) s =
          .next { s with
            framerJob := none
            sticky := s.sticky ||| 0x002#10
            busOpen := false
            trace := s.trace ++ [.closeBus, .ans .ok] } ∧
        runTurns (answeredRounds [.fail]) s =
          .next { s with
            framerJob := none
            sticky := s.sticky ||| 0x012#10
            guard := false
            busOpen := false
            trace := s.trace ++ [.closeBus, .ans .fail] })

/-- R213, R214, R202, R299: a REFRESH on an open bus, every request answered ok, emits exactly the thirteen transfers of
the rule, the eight chunks of FB in order last, and ends with REFRESH_OK, FRAMER_DONE and the guard clear. The first Dc(0)
is emitted only if dcLevel was 1; with the DC pin released the transfers go out as Xfer(Z, ...) and no Dc event is
emitted. -/
def Obligations.RefreshSendsThirteenTransfers : Prop :=
  ∀ s : State, s.framerJob = some { cmd := .refresh, m := 0, pending := none } → s.busOpen = true →
    let dcLow : Pin := if s.ctrl.dcOe then .low else .released
    let dcHigh : Pin := if s.ctrl.dcOe then .high else .released
    let falls : List Event := if s.ctrl.dcOe then [.dc .low] else []
    let rises : List Event := if s.ctrl.dcOe then [.dc .high] else []
    let chunk (j : Nat) : List Byte := (List.range 4096).map fun i => Memory.read s.fb (4096 * j + i)
    let events : List Event :=
      (if s.dcLevel then falls else []) ++ [.xfer dcLow [0x15#8], .ans .ok] ++ rises
        ++ [.xfer dcHigh [0x00#8, 0x7F#8], .ans .ok] ++ falls ++ [.xfer dcLow [0x75#8], .ans .ok] ++ rises
        ++ [.xfer dcHigh [0x00#8, 0x7F#8], .ans .ok] ++ falls ++ [.xfer dcLow [0x5C#8], .ans .ok] ++ rises
        ++ (List.range 8).flatMap fun j => [.xfer dcHigh (chunk j), .ans .ok]
    runTurns (answeredRounds (List.replicate 20 .ok)) s =
        .next { s with
          framerJob := none
          guard := false
          sticky := s.sticky ||| 0x006#10
          dcLevel := true
          trace := s.trace ++ events } ∧
      transferCount events = 13

/-- R214, under every interleaving without a reset: from acceptance to its end, a REFRESH that does not fail emits
exactly 13 transfers, whatever the host, the draw engine and the order of turns are. -/
def Obligations.RefreshTransferCountUnderEveryInterleaving : Prop :=
  ∀ (ts : List Turn) (s t : State), s.framerJob = some { cmd := .refresh, m := 0, pending := none } →
    (∀ u ∈ ts, u.isReset = false) →
    (∀ n u, n < ts.length → runTurns (ts.take n) s = .next u → u.framerJob ≠ none) →
    runTurns ts s = .next t → t.framerJob = none → t.has .errTransport = false →
    transferCount t.trace = transferCount s.trace + 13

/-- R205, R209: a transfer on a closed bus, and a fail answer, abort the command in one action: ERR_TRANSPORT and
FRAMER_DONE set, the guard clear, the framer idle; no event but the answer itself, and dcLevel and busOpen as they
were. -/
def Obligations.FramerAbortIsOneAction : Prop :=
  ∀ (s : State) (job : FramerJob), s.framerJob = some job →
    (∀ src, job.pending = none → job.cmd.microOps[job.m]? = some (.xfer src) → s.busOpen = false →
      runTurns [.framer] s =
        .next { s with framerJob := none, guard := false, sticky := s.sticky ||| 0x012#10 }) ∧
    (job.pending ≠ none →
      runTurns [.transport .fail] s =
        .next { s with
          framerJob := none
          guard := false
          sticky := s.sticky ||| 0x012#10
          trace := s.trace ++ [.ans .fail] })

/-- R204, R206, R282: while a request is outstanding the framer has no step, and an ok answer ends the wait and advances
m; with none outstanding an answer changes nothing. -/
def Obligations.AnswerIsTakenOnlyWhileAwaited : Prop :=
  ∀ s : State,
    (s.pending = none → ∀ o, runTurns [.transport o] s = .next s) ∧
      ∀ job r, s.framerJob = some job → job.pending = some r →
        runTurns [.framer] s = .next s ∧
          runTurns [.transport .ok] s =
            .next { s with
              framerJob := some { job with m := job.m + 1, pending := none }
              busOpen := if r = .openBus then true else s.busOpen
              trace := s.trace ++ [.ans .ok] }

/-- R206, R301: if every request is answered, ok or fail, a framer command ends, with FRAMER_DONE set and the guard
clear. -/
def Obligations.FramerEndsWhenEveryRequestIsAnswered : Prop :=
  ∀ (s : State) (job : FramerJob) (os : List Answer), s.FramerInv → s.framerJob = some job → job.pending = none →
    job.cmd.microOps.length ≤ job.m + os.length →
    ∃ t, runTurns (answeredRounds os) s = .next t ∧ t.framerJob = none ∧ t.guard = false ∧ t.has .framerDone = true

/-- R298: while the Transport does not answer, nothing but a reset moves the framer: under every other interleaving its
command stays as it is, and every REFRESH is rejected. -/
def Obligations.StalledTransportHoldsTheFramer : Prop :=
  ∀ (ts : List Turn) (s t : State) (job : FramerJob), s.framerJob = some job → job.pending ≠ none →
    (∀ u ∈ ts, u.isReset = false ∧ u.isTransport = false) → runTurns ts s = .next t →
    t.framerJob = some job ∧ exec .refresh t = .next { t with sticky := t.sticky ||| 0x008#10 }

/-- R222: a framer turn or an answer changes only the framer's own state, the trace, and FRAMER_DONE, REFRESH_OK and
ERR_TRANSPORT; it writes no framebuffer byte, no other register, and not the draw engine. -/
def Obligations.FramerTurnChangesOnlyItsOwn : Prop :=
  ∀ (s t : State) (u : Turn), (u = .framer ∨ ∃ o, u = .transport o) → runTurns [u] s = .next t →
    t = { s with
        framerJob := t.framerJob
        guard := t.guard
        busOpen := t.busOpen
        dcLevel := t.dcLevel
        sticky := t.sticky
        trace := t.trace } ∧
      t.sticky ||| 0x016#10 = s.sticky ||| 0x016#10 ∧ t.sticky &&& s.sticky = s.sticky ∧
      ∃ more, t.trace = s.trace ++ more

/-- R294: while the guard is set and the host keeps its obligation (no draw step, no window write), the framebuffer stays
the one of the start; and a REFRESH that runs so from its acceptance sends one consistent frame: its transfers, in order,
are the addressing commands, the data opcode and the eight chunks of the framebuffer of the start, up to where it has come,
and all of them once it has ended without an error. -/
def Obligations.QuietRefreshKeepsTheFrame : Prop :=
  ∀ (ts : List Turn) (s t : State),
    (∀ n u tn, ts[n]? = some tn → runTurns (ts.take n) s = .next u →
      u.guard = true ∧ tn.isReset = false ∧ tn.keepsFrameQuiet u) →
    runTurns ts s = .next t →
    let chunk (j : Nat) : List Byte := (List.range 4096).map fun i => Memory.read s.fb (4096 * j + i)
    let frame : List (List Byte) :=
      [[0x15#8], [0x00#8, 0x7F#8], [0x75#8], [0x00#8, 0x7F#8], [0x5C#8]] ++ (List.range 8).map chunk
    t.fb = s.fb ∧
      (s.framerJob = some { cmd := .refresh, m := 0, pending := none } →
        ∃ events, t.trace = s.trace ++ events ∧ events.filterMap Event.transfer <+: frame ∧
          (t.framerJob = none → t.has .errTransport = false → events.filterMap Event.transfer = frame))

/-! ## Host programs -/

/-- R130, R153: PLOT x, y issued by the host to an idle draw engine and run for two draw turns writes the point in the
colour of COLOR565. -/
def Obligations.PlotProgramDrawsItsPoint : Prop :=
  ∀ (s : State) (x y : Int), s.drawJob = none →
    -32768 ≤ x → x ≤ 32767 → -32768 ≤ y → y ≤ 32767 →
    runTurns ((plotProgram x y).map .host ++ [.draw, .draw]) s =
      .next { s with
        fb := (s.plot ⟨x, y⟩ s.color565).fb
        sticky := (s.plot ⟨x, y⟩ s.color565).sticky ||| 0x001#10
        arg0 := BitVec.ofInt 16 y ++ BitVec.ofInt 16 x
        response := some ⟨.okay, 0#32⟩ }

/-- R37, R118, R130: SEND op, [b0, ...] of at most 16 bytes, issued to an idle framer, latches that opcode and exactly
those payload bytes, and changes no sticky STATUS bit (FRAMER_BUSY rises: the framer holds the command). -/
def Obligations.SendProgramLatchesItsPayload : Prop :=
  ∀ (s : State) (op : Byte) (payload : List Byte) (h : payload.length ≤ 16), s.framerJob = none →
    ∃ t, runTurns ((sendProgram op ⟨payload, h⟩).map .host) s = .next t ∧
      t.framerJob = some { cmd := .sendcmd op payload, m := 0, pending := none } ∧ t.sticky = s.sticky

/-! ## Invariants of every step -/

/-- R40: every step keeps the framebuffer in canonical form inside its 32768 bytes. -/
def Obligations.StepKeepsFramebufferCanonical : Prop :=
  ∀ s t : State, s.FbInv → step s = .next t → t.FbInv

/-- R206, R212: every step keeps the framer's invariant: the guard is 1 exactly while a REFRESH runs. -/
def Obligations.StepKeepsGuardExact : Prop :=
  ∀ s t : State, s.FramerInv → step s = .next t → t.FramerInv

/-- R201 to R206: every step keeps the output trace a legal run of the pins and the transport port, and what an observer
reads off it is what the block holds. -/
def Obligations.StepKeepsTraceLegal : Prop :=
  ∀ s t : State, s.TraceInv → step s = .next t → t.TraceInv

/-- R124, R125: every step keeps every transfer sent with the DC pin low a single byte. -/
def Obligations.StepKeepsOpcodeTransfersSingle : Prop :=
  ∀ s t : State, s.FramerInv → s.OpcodeInv → step s = .next t → t.OpcodeInv

/-- R32, R41: every step keeps CLOCK_HZ and a latched clock rate multiples of 65536, and 0 ≤ k ≤ |P|. -/
def Obligations.StepKeepsClockAndIndexBounds : Prop :=
  ∀ s t : State, s.ClockInv → s.DrawInv → step s = .next t → t.ClockInv ∧ t.DrawInv

/-- The invariants hold right after reset. -/
def Obligations.ResetMeetsEveryInvariant : Prop :=
  State.reset.FbInv ∧ State.reset.ClockInv ∧ State.reset.DrawInv ∧ State.reset.FramerInv ∧ State.reset.TraceInv ∧
    State.reset.OpcodeInv

/-- R23, R46, R284: the state right after reset, read through the registers, the engines and the pins (the model's own
fields aside). -/
def Obligations.ResetStateHasSpecValues : Prop :=
  (∀ o v, (o, v) ∈ [(0x0000, 0x10C28080#32), (0x0004, 0#32), (0x0008, 0#32), (0x000C, 0#32), (0x0010, 0x012C0000#32),
      (0x0014, 0#32), (0x0018, 0#32), (0x001C, 0#32), (0x0020, 0#32), (0x0024, 0#32), (0x0030, 0#32), (0x0034, 0#32),
      (0x0038, 0#32), (0x003C, 0#32), (0x0040, 0#32)] →
    hostAccess { dir := .read, offset := o, size := .four, wdata := 0#32 } State.reset =
      .next { State.reset with response := some ⟨.okay, v⟩ }) ∧
    State.reset.dbusy = false ∧ State.reset.fbusy = false ∧ State.reset.guard = false ∧ State.reset.busOpen = false ∧
    State.reset.dcLevel = true ∧ State.reset.pending = none ∧ State.reset.rstPin = .released ∧
    State.reset.dcPin = .released ∧ State.reset.irq = false

/-- R280, R283: block reset, from any state and at any time: every register and engine as after reset, the trace kept
with a Reset event, and FB at any contents whatever, each byte of it. -/
def Obligations.BlockResetAdmitsEveryFramebuffer : Prop :=
  ∀ f : Nat → Byte, ∃ fill, ∀ s : State, ∃ t, runTurns [.reset fill] s = .next t ∧
    (∀ i, i < 32768 → Memory.read t.fb i = f i) ∧
    t = { State.reset with fb := t.fb, trace := s.trace ++ [.reset], agenda := s.agenda }

/-- R250: no step ends in a fault or a refusal: whatever the state and the turn, the machine goes on. -/
def Obligations.StepAlwaysAnswersNext : Prop :=
  ∀ s : State, ∃ t, step s = .next t
end

