-- ==== Sys2Proof/Laws/State.lean ====
section
/-! SUPPORT. What each update of State leaves in each field: one lemma per field, true by definition. -/

namespace Sys2Proof.Machine

variable (s : State)

/-! raise -/

@[simp] theorem State.raise_fb (c : Condition) : (s.raise c).fb = s.fb := rfl
@[simp] theorem State.raise_ctrl (c : Condition) : (s.raise c).ctrl = s.ctrl := rfl
@[simp] theorem State.raise_sticky (c : Condition) : (s.raise c).sticky = s.sticky ||| c.mask := rfl
@[simp] theorem State.raise_irqEn (c : Condition) : (s.raise c).irqEn = s.irqEn := rfl
@[simp] theorem State.raise_clockHz (c : Condition) : (s.raise c).clockHz = s.clockHz := rfl
@[simp] theorem State.raise_color565 (c : Condition) : (s.raise c).color565 = s.color565 := rfl
@[simp] theorem State.raise_cursor (c : Condition) : (s.raise c).cursor = s.cursor := rfl
@[simp] theorem State.raise_arg0 (c : Condition) : (s.raise c).arg0 = s.arg0 := rfl
@[simp] theorem State.raise_arg1 (c : Condition) : (s.raise c).arg1 = s.arg1 := rfl
@[simp] theorem State.raise_payload0 (c : Condition) : (s.raise c).payload0 = s.payload0 := rfl
@[simp] theorem State.raise_payload1 (c : Condition) : (s.raise c).payload1 = s.payload1 := rfl
@[simp] theorem State.raise_payload2 (c : Condition) : (s.raise c).payload2 = s.payload2 := rfl
@[simp] theorem State.raise_payload3 (c : Condition) : (s.raise c).payload3 = s.payload3 := rfl
@[simp] theorem State.raise_drawJob (c : Condition) : (s.raise c).drawJob = s.drawJob := rfl
@[simp] theorem State.raise_framerJob (c : Condition) : (s.raise c).framerJob = s.framerJob := rfl
@[simp] theorem State.raise_guard (c : Condition) : (s.raise c).guard = s.guard := rfl
@[simp] theorem State.raise_busOpen (c : Condition) : (s.raise c).busOpen = s.busOpen := rfl
@[simp] theorem State.raise_dcLevel (c : Condition) : (s.raise c).dcLevel = s.dcLevel := rfl
@[simp] theorem State.raise_trace (c : Condition) : (s.raise c).trace = s.trace := rfl
@[simp] theorem State.raise_agenda (c : Condition) : (s.raise c).agenda = s.agenda := rfl
@[simp] theorem State.raise_response (c : Condition) : (s.raise c).response = s.response := rfl
@[simp] theorem State.raise_dbusy (c : Condition) : (s.raise c).dbusy = s.dbusy := rfl
@[simp] theorem State.raise_fbusy (c : Condition) : (s.raise c).fbusy = s.fbusy := rfl
@[simp] theorem State.raise_pending (c : Condition) : (s.raise c).pending = s.pending := rfl
@[simp] theorem State.raise_rstPin (c : Condition) : (s.raise c).rstPin = s.rstPin := rfl
@[simp] theorem State.raise_dcPin (c : Condition) : (s.raise c).dcPin = s.dcPin := rfl

/-! acknowledge -/

@[simp] theorem State.acknowledge_fb (v : Word) : (s.acknowledge v).fb = s.fb := rfl
@[simp] theorem State.acknowledge_ctrl (v : Word) : (s.acknowledge v).ctrl = s.ctrl := rfl
@[simp] theorem State.acknowledge_sticky (v : Word) : (s.acknowledge v).sticky = s.sticky &&& ~~~(v.extractLsb' 8 10) := rfl
@[simp] theorem State.acknowledge_irqEn (v : Word) : (s.acknowledge v).irqEn = s.irqEn := rfl
@[simp] theorem State.acknowledge_clockHz (v : Word) : (s.acknowledge v).clockHz = s.clockHz := rfl
@[simp] theorem State.acknowledge_color565 (v : Word) : (s.acknowledge v).color565 = s.color565 := rfl
@[simp] theorem State.acknowledge_cursor (v : Word) : (s.acknowledge v).cursor = s.cursor := rfl
@[simp] theorem State.acknowledge_arg0 (v : Word) : (s.acknowledge v).arg0 = s.arg0 := rfl
@[simp] theorem State.acknowledge_arg1 (v : Word) : (s.acknowledge v).arg1 = s.arg1 := rfl
@[simp] theorem State.acknowledge_payload0 (v : Word) : (s.acknowledge v).payload0 = s.payload0 := rfl
@[simp] theorem State.acknowledge_payload1 (v : Word) : (s.acknowledge v).payload1 = s.payload1 := rfl
@[simp] theorem State.acknowledge_payload2 (v : Word) : (s.acknowledge v).payload2 = s.payload2 := rfl
@[simp] theorem State.acknowledge_payload3 (v : Word) : (s.acknowledge v).payload3 = s.payload3 := rfl
@[simp] theorem State.acknowledge_drawJob (v : Word) : (s.acknowledge v).drawJob = s.drawJob := rfl
@[simp] theorem State.acknowledge_framerJob (v : Word) : (s.acknowledge v).framerJob = s.framerJob := rfl
@[simp] theorem State.acknowledge_guard (v : Word) : (s.acknowledge v).guard = s.guard := rfl
@[simp] theorem State.acknowledge_busOpen (v : Word) : (s.acknowledge v).busOpen = s.busOpen := rfl
@[simp] theorem State.acknowledge_dcLevel (v : Word) : (s.acknowledge v).dcLevel = s.dcLevel := rfl
@[simp] theorem State.acknowledge_trace (v : Word) : (s.acknowledge v).trace = s.trace := rfl
@[simp] theorem State.acknowledge_agenda (v : Word) : (s.acknowledge v).agenda = s.agenda := rfl
@[simp] theorem State.acknowledge_response (v : Word) : (s.acknowledge v).response = s.response := rfl
@[simp] theorem State.acknowledge_dbusy (v : Word) : (s.acknowledge v).dbusy = s.dbusy := rfl
@[simp] theorem State.acknowledge_fbusy (v : Word) : (s.acknowledge v).fbusy = s.fbusy := rfl
@[simp] theorem State.acknowledge_pending (v : Word) : (s.acknowledge v).pending = s.pending := rfl
@[simp] theorem State.acknowledge_rstPin (v : Word) : (s.acknowledge v).rstPin = s.rstPin := rfl
@[simp] theorem State.acknowledge_dcPin (v : Word) : (s.acknowledge v).dcPin = s.dcPin := rfl

/-! emit -/

@[simp] theorem State.emit_fb (e : Event) : (s.emit e).fb = s.fb := rfl
@[simp] theorem State.emit_ctrl (e : Event) : (s.emit e).ctrl = s.ctrl := rfl
@[simp] theorem State.emit_sticky (e : Event) : (s.emit e).sticky = s.sticky := rfl
@[simp] theorem State.emit_irqEn (e : Event) : (s.emit e).irqEn = s.irqEn := rfl
@[simp] theorem State.emit_clockHz (e : Event) : (s.emit e).clockHz = s.clockHz := rfl
@[simp] theorem State.emit_color565 (e : Event) : (s.emit e).color565 = s.color565 := rfl
@[simp] theorem State.emit_cursor (e : Event) : (s.emit e).cursor = s.cursor := rfl
@[simp] theorem State.emit_arg0 (e : Event) : (s.emit e).arg0 = s.arg0 := rfl
@[simp] theorem State.emit_arg1 (e : Event) : (s.emit e).arg1 = s.arg1 := rfl
@[simp] theorem State.emit_payload0 (e : Event) : (s.emit e).payload0 = s.payload0 := rfl
@[simp] theorem State.emit_payload1 (e : Event) : (s.emit e).payload1 = s.payload1 := rfl
@[simp] theorem State.emit_payload2 (e : Event) : (s.emit e).payload2 = s.payload2 := rfl
@[simp] theorem State.emit_payload3 (e : Event) : (s.emit e).payload3 = s.payload3 := rfl
@[simp] theorem State.emit_drawJob (e : Event) : (s.emit e).drawJob = s.drawJob := rfl
@[simp] theorem State.emit_framerJob (e : Event) : (s.emit e).framerJob = s.framerJob := rfl
@[simp] theorem State.emit_guard (e : Event) : (s.emit e).guard = s.guard := rfl
@[simp] theorem State.emit_busOpen (e : Event) : (s.emit e).busOpen = s.busOpen := rfl
@[simp] theorem State.emit_dcLevel (e : Event) : (s.emit e).dcLevel = s.dcLevel := rfl
@[simp] theorem State.emit_trace (e : Event) : (s.emit e).trace = s.trace ++ [e] := rfl
@[simp] theorem State.emit_agenda (e : Event) : (s.emit e).agenda = s.agenda := rfl
@[simp] theorem State.emit_response (e : Event) : (s.emit e).response = s.response := rfl
@[simp] theorem State.emit_dbusy (e : Event) : (s.emit e).dbusy = s.dbusy := rfl
@[simp] theorem State.emit_fbusy (e : Event) : (s.emit e).fbusy = s.fbusy := rfl
@[simp] theorem State.emit_pending (e : Event) : (s.emit e).pending = s.pending := rfl
@[simp] theorem State.emit_rstPin (e : Event) : (s.emit e).rstPin = s.rstPin := rfl
@[simp] theorem State.emit_dcPin (e : Event) : (s.emit e).dcPin = s.dcPin := rfl

/-! respond -/

@[simp] theorem State.respond_fb (r : Response) : (s.respond r).fb = s.fb := rfl
@[simp] theorem State.respond_ctrl (r : Response) : (s.respond r).ctrl = s.ctrl := rfl
@[simp] theorem State.respond_sticky (r : Response) : (s.respond r).sticky = s.sticky := rfl
@[simp] theorem State.respond_irqEn (r : Response) : (s.respond r).irqEn = s.irqEn := rfl
@[simp] theorem State.respond_clockHz (r : Response) : (s.respond r).clockHz = s.clockHz := rfl
@[simp] theorem State.respond_color565 (r : Response) : (s.respond r).color565 = s.color565 := rfl
@[simp] theorem State.respond_cursor (r : Response) : (s.respond r).cursor = s.cursor := rfl
@[simp] theorem State.respond_arg0 (r : Response) : (s.respond r).arg0 = s.arg0 := rfl
@[simp] theorem State.respond_arg1 (r : Response) : (s.respond r).arg1 = s.arg1 := rfl
@[simp] theorem State.respond_payload0 (r : Response) : (s.respond r).payload0 = s.payload0 := rfl
@[simp] theorem State.respond_payload1 (r : Response) : (s.respond r).payload1 = s.payload1 := rfl
@[simp] theorem State.respond_payload2 (r : Response) : (s.respond r).payload2 = s.payload2 := rfl
@[simp] theorem State.respond_payload3 (r : Response) : (s.respond r).payload3 = s.payload3 := rfl
@[simp] theorem State.respond_drawJob (r : Response) : (s.respond r).drawJob = s.drawJob := rfl
@[simp] theorem State.respond_framerJob (r : Response) : (s.respond r).framerJob = s.framerJob := rfl
@[simp] theorem State.respond_guard (r : Response) : (s.respond r).guard = s.guard := rfl
@[simp] theorem State.respond_busOpen (r : Response) : (s.respond r).busOpen = s.busOpen := rfl
@[simp] theorem State.respond_dcLevel (r : Response) : (s.respond r).dcLevel = s.dcLevel := rfl
@[simp] theorem State.respond_trace (r : Response) : (s.respond r).trace = s.trace := rfl
@[simp] theorem State.respond_agenda (r : Response) : (s.respond r).agenda = s.agenda := rfl
@[simp] theorem State.respond_response (r : Response) : (s.respond r).response = some r := rfl
@[simp] theorem State.respond_dbusy (r : Response) : (s.respond r).dbusy = s.dbusy := rfl
@[simp] theorem State.respond_fbusy (r : Response) : (s.respond r).fbusy = s.fbusy := rfl
@[simp] theorem State.respond_pending (r : Response) : (s.respond r).pending = s.pending := rfl
@[simp] theorem State.respond_rstPin (r : Response) : (s.respond r).rstPin = s.rstPin := rfl
@[simp] theorem State.respond_dcPin (r : Response) : (s.respond r).dcPin = s.dcPin := rfl

/-! The pin events of an action -/

/-- The pin events of an action that took the block from `old` to `s`. -/
def pinEvents (s old : State) : List Event :=
  (if s.rstPin = old.rstPin then [] else [.rst s.rstPin]) ++ (if s.dcPin = old.dcPin then [] else [.dc s.dcPin])

@[simp] theorem Event.transfer_xfer (d : Pin) (bytes : List Byte) : (Event.xfer d bytes).transfer = some bytes := rfl
@[simp] theorem Event.transfer_rst (v : Pin) : (Event.rst v).transfer = none := rfl
@[simp] theorem Event.transfer_dc (v : Pin) : (Event.dc v).transfer = none := rfl
@[simp] theorem Event.transfer_openBus (clk : Word) : (Event.openBus clk).transfer = none := rfl
@[simp] theorem Event.transfer_closeBus : Event.closeBus.transfer = none := rfl
@[simp] theorem Event.transfer_ans (o : Answer) : (Event.ans o).transfer = none := rfl
@[simp] theorem Event.transfer_reset : Event.reset.transfer = none := rfl

/-- A change of the pins is no transfer. -/
@[simp] theorem filterMap_transfer_pinEvents (old : State) : (pinEvents s old).filterMap Event.transfer = [] := by
  unfold pinEvents
  split <;> split <;> rfl

theorem State.emitPinChanges_eq (old : State) :
    s.emitPinChanges old = { s with trace := s.trace ++ pinEvents s old } := by
  unfold State.emitPinChanges pinEvents
  by_cases h1 : s.rstPin = old.rstPin <;> by_cases h2 : s.dcPin = old.dcPin <;> simp [h1, h2, State.emit]

theorem State.writeCtrl_eq (v : Word) :
    s.writeCtrl v =
      { s with ctrl := Ctrl.ofWord v, trace := s.trace ++ pinEvents { s with ctrl := Ctrl.ofWord v } s } := by
  simp [State.writeCtrl, State.emitPinChanges_eq]

theorem State.setDcLevel_eq (v : Bool) :
    s.setDcLevel v = { s with dcLevel := v, trace := s.trace ++ pinEvents { s with dcLevel := v } s } := by
  simp [State.setDcLevel, State.emitPinChanges_eq]

/-! plot -/

theorem State.plot_eq (p : Point) (c : Half) :
    s.plot p c =
      { s with
        fb := Memory.writePixel s.fb p c
        sticky := if p.onGrid then s.sticky else s.sticky ||| Condition.coordRange.mask } := by
  unfold State.plot
  by_cases h : p.onGrid = true <;> simp [h, State.raise]

/-! The conditions -/

theorem Condition.index_lt (c : Condition) : c.index < 10 := by cases c <;> decide

theorem Condition.getLsbD_mask (c : Condition) (i : Nat) : c.mask.getLsbD i = decide (i = c.index) := by
  by_cases hi : i < 10
  · cases c <;> simp only [Condition.mask, Condition.index] <;> interval_cases i <;> decide
  · have := c.index_lt
    rw [BitVec.getLsbD_of_ge _ _ (by omega)]
    simp; omega

theorem Condition.index_injective {a b : Condition} (h : a.index = b.index) : a = b := by
  cases a <;> cases b <;> simp_all [Condition.index]

@[simp] theorem State.has_raise (c d : Condition) : (s.raise c).has d = (s.has d || decide (d = c)) := by
  have : (d.index = c.index) ↔ d = c := ⟨Condition.index_injective, fun h => h ▸ rfl⟩
  simp [State.has, Condition.getLsbD_mask, this]

@[simp] theorem State.has_acknowledge (v : Word) (d : Condition) :
    (s.acknowledge v).has d = (s.has d && !v.getLsbD d.code) := by
  have := d.index_lt
  simp [State.has, Condition.code, this, Nat.add_comm]

end Sys2Proof.Machine
end

