-- ==== Sys2Proof/Laws/Memory.lean ====
section
/-! SUPPORT. Framebuffer memory: every operation keeps the canonical form, and what a read gives after a write. -/

namespace Sys2Proof.Machine

/-- The order half of the canonical form. -/
abbrev Memory.Sorted (m : Memory) : Prop := m.Pairwise (fun a b => a.1 < b.1)

theorem Memory.read_of_lt {m : Memory} {i : Nat} (h : ∀ c ∈ m, i < c.1) : m.read i = Memory.unlisted := by
  induction m with
  | nil => rfl
  | cons c m ih =>
    obtain ⟨a, b⟩ := c
    have ha : i < a := h (a, b) (by simp)
    have hne : a ≠ i := by omega
    simp only [Memory.read, hne, if_false]
    exact ih fun c hc => h c (by simp [hc])

theorem Memory.mem_write {m : Memory} {i : Nat} {b : Byte} {c : Host.Cell} (h : c ∈ m.write i b) :
    c ∈ m ∨ (c = (i, b) ∧ b ≠ Memory.unlisted) := by
  induction m with
  | nil =>
    unfold Memory.write at h
    split at h
    · simp at h
    · next hb => exact .inr ⟨by simpa using h, hb⟩
  | cons d m ih =>
    obtain ⟨a, e⟩ := d
    unfold Memory.write at h
    split at h
    · rcases List.mem_cons.mp h with h | h
      · exact .inl (by simp [h])
      · rcases ih h with h | h
        · exact .inl (by simp [h])
        · exact .inr h
    · split at h
      · split at h
        · exact .inl (by simp [h])
        · next hb =>
          rcases List.mem_cons.mp h with h | h
          · exact .inr ⟨h, hb⟩
          · exact .inl (by simp [h])
      · split at h
        · exact .inl h
        · next hb =>
          rcases List.mem_cons.mp h with h | h
          · exact .inr ⟨h, hb⟩
          · exact .inl h

theorem Memory.write_sorted {m : Memory} (h : m.Sorted) (i : Nat) (b : Byte) : (m.write i b).Sorted := by
  induction m with
  | nil => unfold Memory.write; split <;> simp
  | cons d m ih =>
    obtain ⟨a, e⟩ := d
    obtain ⟨hd, hm⟩ := List.pairwise_cons.mp h
    unfold Memory.write
    split
    · next hlt =>
      refine List.pairwise_cons.mpr ⟨fun c hc => ?_, ih hm⟩
      rcases Memory.mem_write hc with h | ⟨rfl, -⟩
      · exact hd c h
      · exact hlt
    · split
      · next heq =>
        subst heq
        split
        · exact hm
        · exact List.pairwise_cons.mpr ⟨hd, hm⟩
      · split
        · exact h
        · refine List.pairwise_cons.mpr ⟨fun c hc => ?_, h⟩
          rcases List.mem_cons.mp hc with rfl | h
          · show i < a; omega
          · have := hd c h; show i < c.1; simp only at this; omega

/-- A write inside FB keeps the canonical form. -/
theorem Memory.write_wf {m : Memory} (h : m.wf) {i : Nat} (hi : i < Config.fbBytes) (b : Byte) :
    (m.write i b).wf := by
  refine ⟨Memory.write_sorted h.1 i b, fun c hc => ?_⟩
  rcases Memory.mem_write hc with hc | ⟨rfl, hb⟩
  · exact h.2 c hc
  · exact ⟨hb, hi⟩

/-- A read after a write: the byte written there, every other byte as before. -/
theorem Memory.read_write {m : Memory} (h : m.Sorted) (i j : Nat) (b : Byte) :
    (m.write i b).read j = if j = i then b else m.read j := by
  induction m with
  | nil =>
    unfold Memory.write
    split
    · next hb => subst hb; simp [Memory.read]
    · simp only [Memory.read]; simp only [eq_comm]
  | cons d m ih =>
    obtain ⟨a, e⟩ := d
    obtain ⟨hd, hm⟩ := List.pairwise_cons.mp h
    unfold Memory.write
    split
    · next hlt =>
      simp only [Memory.read, ih hm]
      by_cases h1 : a = j
      · have : j ≠ i := by omega
        simp [h1, this]
      · simp [h1]
    · split
      · next heq =>
        subst heq
        have hlow : Memory.read m a = Memory.unlisted := Memory.read_of_lt fun c hc => hd c hc
        split
        · next hb =>
          subst hb
          by_cases h1 : j = a
          · simp [h1, hlow]
          · have : a ≠ j := fun h => h1 h.symm
            simp [Memory.read, h1, this]
        · by_cases h1 : j = a
          · simp [Memory.read, h1]
          · have : a ≠ j := fun h => h1 h.symm
            simp [Memory.read, h1, this]
      · next h1 h2 =>
        have hlow : Memory.read ((a, e) :: m) i = Memory.unlisted := by
          refine Memory.read_of_lt fun c hc => ?_
          rcases List.mem_cons.mp hc with rfl | h
          · show i < a; omega
          · have := hd c h; simp only at this; omega
        split
        · next hb =>
          subst hb
          by_cases h3 : j = i
          · subst h3; simp [hlow]
          · simp [h3]
        · by_cases h3 : j = i
          · simp [Memory.read, h3]
          · have : i ≠ j := fun h => h3 h.symm
            simp only [Memory.read, this, h3, if_false]

theorem Memory.read_nil (i : Nat) : Memory.read [] i = Memory.unlisted := rfl

theorem Memory.wf_nil : Memory.wf [] := by simp [Memory.wf]

/-- The canonical memory of a list of contents is in canonical form. -/
theorem Memory.ofCells_wf (cells : List Host.Cell) : (Memory.ofCells cells).wf := by
  have step : ∀ (l : List Host.Cell) (m : Memory), m.wf →
      (l.foldl (fun m c => if c.1 < Config.fbBytes then Memory.write m c.1 c.2 else m) m : Memory).wf := by
    intro l
    induction l with
    | nil => exact fun m h => h
    | cons c l ih =>
      intro m h
      refine ih _ ?_
      dsimp only
      split
      · next hc => exact Memory.write_wf h hc _
      · exact h
  exact step cells [] Memory.wf_nil

/-- plot keeps the canonical form. -/
theorem Memory.writePixel_wf {m : Memory} (h : m.wf) (p : Point) (c : Half) : (m.writePixel p c).wf := by
  unfold Memory.writePixel
  split
  · next hp =>
    obtain ⟨h0, h1⟩ := hp
    exact Memory.write_wf (Memory.write_wf h (by omega) _) (by omega) _
  · exact h

/-- What plot's write leaves in byte j: byte1 at the point's index, byte2 after it, all else as before. -/
theorem Memory.read_writePixel {m : Memory} (h : m.Sorted) (p : Point) (c : Half) (j : Nat)
    (hj : j < Config.fbBytes) :
    (m.writePixel p c).read j =
      if (j : Int) = p.index then c.extractLsb' 8 8
      else if (j : Int) = p.index + 1 then c.extractLsb' 0 8
      else m.read j := by
  have heven : ∃ q : Int, p.index = q * 2 := ⟨_, rfl⟩
  obtain ⟨q, hq⟩ := heven
  unfold Memory.writePixel
  split
  · next hp =>
    obtain ⟨h0, h1⟩ := hp
    rw [Memory.read_write (Memory.write_sorted h _ _), Memory.read_write h]
    by_cases ha : (j : Int) = p.index
    · rw [if_neg (by omega), if_pos (by omega), if_pos ha]
    · by_cases hb : (j : Int) = p.index + 1
      · rw [if_pos (by omega), if_neg ha, if_pos hb]
      · rw [if_neg (by omega), if_neg (by omega), if_neg ha, if_neg hb]
  · next hp =>
    have ha : ¬ (j : Int) = p.index := by simp only [Config.fbBytes] at hp hj; omega
    have hb : ¬ (j : Int) = p.index + 1 := by simp only [Config.fbBytes] at hp hj; omega
    rw [if_neg ha, if_neg hb]

/-- Byte lanes: bit b of the word read is bit b mod 8 of lane b / 8, and 0 above the lanes. -/
theorem Memory.readLanes_lane (m : Memory) (n : Nat) :
    ∀ (i j : Nat), j < n → n ≤ 4 → (m.readLanes i n).extractLsb' (8 * j) 8 = m.read (i + j) := by
  induction n with
  | zero => intro i j hj; omega
  | succ n ih =>
    intro i j hj hn
    cases j with
    | zero =>
      unfold Memory.readLanes
      ext k hk
      simp [hk]
      omega
    | succ j =>
      have := ih (i + 1) j (by omega) (by omega)
      rw [show i + (j + 1) = i + 1 + j by omega, ← this]
      rw [Memory.readLanes]
      ext k hk
      simp only [BitVec.getElem_extractLsb', BitVec.getLsbD_or, BitVec.getLsbD_setWidth, BitVec.getLsbD_shiftLeft]
      have h1 : 8 * (j + 1) + k < 32 := by omega
      have h2 : (m.read i).getLsbD (8 * (j + 1) + k) = false := BitVec.getLsbD_of_ge _ _ (by omega)
      have h3 : ¬ 8 * (j + 1) + k < 8 := by omega
      have h4 : 8 * (j + 1) + k - 8 = 8 * j + k := by omega
      simp [h1, h2, h3, h4]

/-- Writing lanes inside FB keeps the canonical form. -/
theorem Memory.writeLanes_wf (n : Nat) :
    ∀ (m : Memory) (i : Nat) (v : Word), m.wf → i + n ≤ Config.fbBytes → (m.writeLanes i n v).wf := by
  induction n with
  | zero => exact fun m i v h _ => h
  | succ n ih =>
    intro m i v h hi
    exact ih _ _ _ (Memory.write_wf h (by omega) _) (by omega)

/-- A read after a lane write: lane j - i of the value inside the access, every other byte as before. -/
theorem Memory.read_writeLanes (n : Nat) :
    ∀ (m : Memory) (i : Nat) (v : Word) (j : Nat), m.Sorted → n ≤ 4 →
      (m.writeLanes i n v).read j =
        if i ≤ j ∧ j < i + n then v.extractLsb' (8 * (j - i)) 8 else m.read j := by
  induction n with
  | zero =>
    intro m i v j _ _
    rw [if_neg (by omega)]
    rfl
  | succ n ih =>
    intro m i v j h hn
    unfold Memory.writeLanes
    rw [ih _ _ _ _ (Memory.write_sorted h _ _) (by omega), Memory.read_write h]
    by_cases h0 : j = i
    · subst h0
      rw [if_neg (by omega), if_pos rfl, if_pos (by omega)]
      ext k hk
      simp
    · by_cases h1 : i + 1 ≤ j ∧ j < i + 1 + n
      · rw [if_pos h1, if_pos (by omega)]
        ext k hk
        have : 8 + (8 * (j - (i + 1)) + k) = 8 * (j - i) + k := by omega
        simp [BitVec.getLsbD_ushiftRight, this]
      · rw [if_neg h1, if_neg h0, if_neg (by omega)]

theorem Memory.length_readBlock (m : Memory) (i n : Nat) : (m.readBlock i n).length = n := by
  simp [Memory.readBlock]

/-- Two memories in canonical form that read alike are the same list. -/
theorem Memory.ext_of_wf : ∀ {m n : Memory}, m.wf → n.wf → (∀ i, m.read i = n.read i) → m = n
  | [], [], _, _, _ => rfl
  | [], (a, b) :: n, _, hn, h => by
    have := h a
    have hb := (hn.2 (a, b) (by simp)).1
    simp [Memory.read] at this
    exact absurd this.symm hb
  | (a, b) :: m, [], hm, _, h => by
    have := h a
    have hb := (hm.2 (a, b) (by simp)).1
    simp [Memory.read] at this
    exact absurd this hb
  | (a, b) :: m, (c, d) :: n, hm, hn, h => by
    obtain ⟨hma, hms⟩ := List.pairwise_cons.mp hm.1
    obtain ⟨hnc, hns⟩ := List.pairwise_cons.mp hn.1
    have hb := (hm.2 (a, b) (by simp)).1
    have hd := (hn.2 (c, d) (by simp)).1
    have lowM : ∀ i, i ≤ a → Memory.read m i = Memory.unlisted := fun i hi =>
      Memory.read_of_lt fun x hx => by have := hma x hx; simp only at this; omega
    have lowN : ∀ i, i ≤ c → Memory.read n i = Memory.unlisted := fun i hi =>
      Memory.read_of_lt fun x hx => by have := hnc x hx; simp only at this; omega
    have hac : a = c := by
      rcases Nat.lt_trichotomy a c with hlt | heq | hgt
      · have := h a
        have h2 : c ≠ a := by omega
        simp only [Memory.read, h2, if_true, if_false, lowN a (by omega)] at this
        exact absurd this hb
      · exact heq
      · have := h c
        have h2 : a ≠ c := by omega
        simp only [Memory.read, h2, if_true, if_false, lowM c (by omega)] at this
        exact absurd this.symm hd
    subst hac
    have hbd : b = d := by have := h a; simpa [Memory.read] using this
    subst hbd
    have hrest : ∀ i, Memory.read m i = Memory.read n i := by
      intro i
      by_cases hi : a = i
      · subst hi; rw [lowM _ (le_refl _), lowN _ (le_refl _)]
      · have := h i
        simpa [Memory.read, hi] using this
    rw [Memory.ext_of_wf ⟨hms, fun x hx => hm.2 x (by simp [hx])⟩ ⟨hns, fun x hx => hn.2 x (by simp [hx])⟩ hrest]

end Sys2Proof.Machine
end

