-- ==== Sys2Proof/Laws/Run.lean ====
section
/-! SUPPORT. Every turn answers a next state, named here as a plain function, so that a run is a fold of that
function; and the one lemma per shared operation that says all it can do. -/

namespace Sys2Proof.Machine

/-! ## The next state of every action -/

/-- The state after a command is issued. -/
def afterExec (i : Instr) (s : State) : State :=
  match i with
  | .plot => acceptDraw s.plotOperands s
  | .line => acceptDraw s.lineOperands s
  | .rect => acceptDraw s.rectOperands s
  | .fillRect => acceptDraw s.fillRectOperands s
  | .circle => acceptDraw s.circleOperands s
  | .fillCircle => acceptDraw s.fillCircleOperands s
  | .clear => acceptDraw .clear s
  | .refresh => acceptFramer .refresh s
  | .sendcmd => if s.payloadLength > Config.payloadMax then s.raise .errBadCmd else acceptFramer s.sendcmdOperands s
  | .contrast => acceptFramer s.contrastOperands s
  | .vscroll => acceptFramer s.vscrollOperands s
  | .busOpen => acceptFramer s.busOpenOperands s
  | .busClose => acceptFramer .busClose s

theorem exec_eq (i : Instr) (s : State) : exec i s = .next (afterExec i s) := by
  cases i <;> try rfl
  simp only [exec, execSendcmd, afterExec]
  split <;> rfl

/-- The state after a CMD write. -/
def afterCommand (v : Word) (s : State) : State :=
  match decode v with
  | .ok i => afterExec i s
  | .error _ => s.raise .errBadCmd

theorem issueCommand_eq (v : Word) (s : State) : issueCommand v s = .next (afterCommand v s) := by
  unfold issueCommand afterCommand
  cases decode v with
  | ok i => exact exec_eq i s
  | error e => rfl

/-- The state after a register write. -/
def afterWriteReg (r : Reg) (v : Word) (s : State) : State :=
  match r with
  | .params => s
  | .ctrl => s.writeCtrl v
  | .status => s.acknowledge v
  | .irqEn => { s with irqEn := v.extractLsb' 8 10 }
  | .clockHz => { s with clockHz := v &&& 0xFFFF0000#32 }
  | .color565 => { s with color565 := v.extractLsb' 0 16 }
  | .colorRgb => { s with color565 := toPanelColor v }
  | .cursor => { s with cursor := v }
  | .arg0 => { s with arg0 := v }
  | .arg1 => { s with arg1 := v }
  | .payload0 => { s with payload0 := v }
  | .payload1 => { s with payload1 := v }
  | .payload2 => { s with payload2 := v }
  | .payload3 => { s with payload3 := v }
  | .cmd => afterCommand v s

theorem writeReg_eq (r : Reg) (v : Word) (s : State) : s.writeReg r v = .next (afterWriteReg r v s) := by
  cases r <;> first | rfl | exact issueCommand_eq v s

/-- The state after a host access. -/
def afterAccess (a : Access) (s : State) : State :=
  match addressMap a.offset a.size with
  | none => s.respond ⟨.busError, 0#32⟩
  | some t =>
    match a.dir with
    | .read => s.respond ⟨.okay, s.readTarget a.size t⟩
    | .write =>
      match t with
      | .reg r => afterWriteReg r a.wdata (s.respond ⟨.okay, 0#32⟩)
      | .window i => { s.respond ⟨.okay, 0#32⟩ with fb := Memory.writeLanes s.fb i a.size.bytes a.wdata }

theorem hostAccess_eq (a : Access) (s : State) : hostAccess a s = .next (afterAccess a s) := by
  unfold hostAccess afterAccess
  cases addressMap a.offset a.size with
  | none => rfl
  | some t =>
    cases a.dir with
    | read => rfl
    | write =>
      cases t with
      | reg r => exact writeReg_eq _ _ _
      | window i => rfl

/-- The state after a turn. -/
def afterTurn (s : State) (t : Turn) : State :=
  match t with
  | .host a => afterAccess a s
  | .draw => drawStep s
  | .framer => framerStep s
  | .transport o => transportStep o s
  | .reset fill => s.blockReset fill

theorem takeTurn_eq (t : Turn) (s : State) : takeTurn t s = .next (afterTurn s t) := by
  cases t <;> first | rfl | exact hostAccess_eq _ s

/-- The state after a step. -/
theorem step_eq (s : State) :
    step s = match s.agenda with
      | [] => .next (afterTurn s (defaultTurn s))
      | t :: rest => .next (afterTurn { s with agenda := rest } t) := by
  unfold step nextTurn
  cases s.agenda with
  | nil => exact takeTurn_eq _ s
  | cons t rest => exact takeTurn_eq t _

/-! ## The agenda moves only by the step -/

theorem acceptDraw_agenda (cmd : DrawCmd) (s : State) (a : List Turn) :
    acceptDraw cmd { s with agenda := a } = { acceptDraw cmd s with agenda := a } := by
  obtain ⟨fb, ctrl, sticky, irqEn, clockHz, color565, cursor, arg0, arg1, payload0, payload1, payload2, payload3,
    drawJob, framerJob, guard, busOpen, dcLevel, trace, agenda, response⟩ := s
  cases drawJob <;> rfl

theorem onAccept_agenda (cmd : FramerCmd) (s : State) (a : List Turn) :
    cmd.onAccept { s with agenda := a } = { cmd.onAccept s with agenda := a } := by
  cases cmd <;> try rfl
  next v => cases h : contrastWarning v <;> simp [FramerCmd.onAccept, h, State.raise]

theorem acceptFramer_agenda (cmd : FramerCmd) (s : State) (a : List Turn) :
    acceptFramer cmd { s with agenda := a } = { acceptFramer cmd s with agenda := a } := by
  obtain ⟨fb, ctrl, sticky, irqEn, clockHz, color565, cursor, arg0, arg1, payload0, payload1, payload2, payload3,
    drawJob, framerJob, guard, busOpen, dcLevel, trace, agenda, response⟩ := s
  cases framerJob with
  | none =>
    exact onAccept_agenda cmd ⟨fb, ctrl, sticky, irqEn, clockHz, color565, cursor, arg0, arg1, payload0, payload1, payload2,
      payload3, drawJob, some ⟨cmd, 0, none⟩, guard, busOpen, dcLevel, trace, agenda, response⟩ a
  | some job => rfl

theorem afterExec_agenda (i : Instr) (s : State) (a : List Turn) :
    afterExec i { s with agenda := a } = { afterExec i s with agenda := a } := by
  cases i <;> simp only [afterExec] <;> try first | exact acceptDraw_agenda _ s a | exact acceptFramer_agenda _ s a
  have h : State.payloadLength { s with agenda := a } = s.payloadLength := rfl
  rw [h]
  split
  · rfl
  · exact acceptFramer_agenda _ s a

theorem afterAccess_agenda (c : Access) (s : State) (a : List Turn) :
    afterAccess c { s with agenda := a } = { afterAccess c s with agenda := a } := by
  unfold afterAccess
  cases addressMap c.offset c.size with
  | none => rfl
  | some t =>
    cases c.dir with
    | read => cases t with
      | reg r => cases r <;> rfl
      | window i => rfl
    | write => cases t with
      | window i => rfl
      | reg r =>
        cases r <;> try rfl
        · simp only [afterWriteReg, State.writeCtrl_eq]; rfl
        · simp only [afterWriteReg, afterCommand]
          cases decode c.wdata with
          | ok i => exact afterExec_agenda i (s.respond _) a
          | error e => rfl

theorem drawStep_agenda (s : State) (a : List Turn) :
    drawStep { s with agenda := a } = { drawStep s with agenda := a } := by
  obtain ⟨fb, ctrl, sticky, irqEn, clockHz, color565, cursor, arg0, arg1, payload0, payload1, payload2, payload3,
    drawJob, framerJob, guard, busOpen, dcLevel, trace, agenda, response⟩ := s
  cases drawJob with
  | none => rfl
  | some job =>
    unfold drawStep
    dsimp only
    cases job.cmd.points[job.k]? with
    | none =>
      unfold drawComplete
      cases job.cmd <;> rfl
    | some p => simp only [State.plot_eq]

theorem microStep_agenda (job : FramerJob) (op : MicroOp) (s : State) (a : List Turn) :
    microStep job op { s with agenda := a } = { microStep job op s with agenda := a } := by
  obtain ⟨fb, ctrl, sticky, irqEn, clockHz, color565, cursor, arg0, arg1, payload0, payload1, payload2, payload3,
    drawJob, framerJob, guard, busOpen, dcLevel, trace, agenda, response⟩ := s
  cases op with
  | dc v => simp only [microStep, State.setDcLevel_eq, framerAdvance]; rfl
  | xfer src => cases busOpen <;> rfl
  | openBus clk => cases busOpen <;> rfl
  | closeBus => cases busOpen <;> rfl
  | done => simp only [microStep, framerComplete]; cases job.cmd <;> rfl

theorem framerStep_agenda (s : State) (a : List Turn) :
    framerStep { s with agenda := a } = { framerStep s with agenda := a } := by
  obtain ⟨fb, ctrl, sticky, irqEn, clockHz, color565, cursor, arg0, arg1, payload0, payload1, payload2, payload3,
    drawJob, framerJob, guard, busOpen, dcLevel, trace, agenda, response⟩ := s
  cases framerJob with
  | none => rfl
  | some job =>
    obtain ⟨cmd, m, pending⟩ := job
    cases pending with
    | some r => rfl
    | none =>
      unfold framerStep
      dsimp only
      cases cmd.microOps[m]? with
      | none => rfl
      | some op =>
        exact microStep_agenda _ op ⟨fb, ctrl, sticky, irqEn, clockHz, color565, cursor, arg0, arg1, payload0, payload1,
          payload2, payload3, drawJob, some ⟨cmd, m, none⟩, guard, busOpen, dcLevel, trace, agenda, response⟩ a

theorem transportStep_agenda (o : Answer) (s : State) (a : List Turn) :
    transportStep o { s with agenda := a } = { transportStep o s with agenda := a } := by
  obtain ⟨fb, ctrl, sticky, irqEn, clockHz, color565, cursor, arg0, arg1, payload0, payload1, payload2, payload3,
    drawJob, framerJob, guard, busOpen, dcLevel, trace, agenda, response⟩ := s
  cases framerJob with
  | none => rfl
  | some job =>
    obtain ⟨cmd, m, pending⟩ := job
    cases pending with
    | none => rfl
    | some r => cases o <;> cases r <;> rfl

/-- A turn neither reads nor writes the agenda. -/
theorem afterTurn_agenda (t : Turn) (s : State) (a : List Turn) :
    afterTurn { s with agenda := a } t = { afterTurn s t with agenda := a } := by
  cases t with
  | host c => exact afterAccess_agenda c s a
  | draw => exact drawStep_agenda s a
  | framer => exact framerStep_agenda s a
  | transport o => exact transportStep_agenda o s a
  | reset fill => rfl

theorem afterTurn_keeps_agenda (t : Turn) (s : State) : (afterTurn s t).agenda = s.agenda := by
  have h : afterTurn s t = { afterTurn s t with agenda := s.agenda } := afterTurn_agenda t s s.agenda
  rw [h]

/-! ## Runs -/

/-- The state after a list of turns. -/
def afterTurns (ts : List Turn) (s : State) : State := ts.foldl afterTurn s

@[simp] theorem afterTurns_nil (s : State) : afterTurns [] s = s := rfl

@[simp] theorem afterTurns_cons (t : Turn) (ts : List Turn) (s : State) :
    afterTurns (t :: ts) s = afterTurns ts (afterTurn s t) := rfl

theorem afterTurns_append (ts us : List Turn) (s : State) :
    afterTurns (ts ++ us) s = afterTurns us (afterTurns ts s) := List.foldl_append

theorem step_cons (s : State) (t : Turn) (rest : List Turn) :
    step { s with agenda := t :: rest } = .next { afterTurn s t with agenda := rest } := by
  rw [← afterTurn_agenda]
  exact takeTurn_eq t _

/-- A run that starts with a step to a next state goes on from there. -/
theorem run_succ (M : Host.Core) {s t : M.State} (h : M.step s = .next t) (k : Nat) :
    M.run (k + 1) s = M.run k t := by
  unfold Host.Core.run
  simp only [h]
  cases k <;> rfl

theorem run_agenda (ts : List Turn) :
    ∀ s : State, Host.Core.run Sys2Proof.core ts.length { s with agenda := ts ++ s.agenda } = .next (afterTurns ts s) := by
  induction ts with
  | nil => intro s; rfl
  | cons t ts ih =>
    intro s
    have h := ih (afterTurn s t)
    rw [afterTurn_keeps_agenda] at h
    have h2 : Sys2Proof.core.step { s with agenda := (t :: ts) ++ s.agenda } =
        .next { afterTurn s t with agenda := ts ++ s.agenda } := step_cons s t (ts ++ s.agenda)
    exact (run_succ Sys2Proof.core h2 ts.length).trans h

/-- A run is a fold: it always answers a next state. -/
theorem runTurns_eq (ts : List Turn) (s : State) : runTurns ts s = .next (afterTurns ts s) := run_agenda ts s

/-- What a step does: the first turn of the agenda, or the default turn. -/
theorem step_cases {s t : State} (h : step s = .next t) :
    (s.agenda = [] ∧ t = afterTurn s (defaultTurn s)) ∨
      ∃ u rest, s.agenda = u :: rest ∧ t = afterTurn { s with agenda := rest } u := by
  rw [step_eq] at h
  cases ha : s.agenda with
  | nil => rw [ha] at h; exact .inl ⟨rfl, (Host.Outcome.next.inj h).symm⟩
  | cons u rest => rw [ha] at h; exact .inr ⟨u, rest, rfl, (Host.Outcome.next.inj h).symm⟩

/-- An invariant that no turn breaks and that does not look at the agenda is kept by every step. -/
theorem step_keeps {Inv : State → Prop} (hagenda : ∀ s a, Inv s → Inv { s with agenda := a })
    (hturn : ∀ s u, Inv s → Inv (afterTurn s u)) {s t : State} (hs : Inv s) (h : step s = .next t) : Inv t := by
  rcases step_cases h with ⟨-, rfl⟩ | ⟨u, rest, -, rfl⟩
  · exact hturn s _ hs
  · exact hturn _ u (hagenda s rest hs)

/-! ## What each shared operation can do -/

/-- acceptDraw: dropped with ERR_OVERRUN, or latched; nothing else. -/
theorem acceptDraw_cases (cmd : DrawCmd) (s : State) :
    (∃ job, s.drawJob = some job ∧ acceptDraw cmd s = s.raise .errOverrun) ∨
      (s.drawJob = none ∧
        acceptDraw cmd s = { s with drawJob := some { cmd := cmd, color := s.color565, k := 0 } }) := by
  unfold acceptDraw
  cases h : s.drawJob with
  | none => exact .inr ⟨rfl, rfl⟩
  | some job => exact .inl ⟨job, rfl, rfl⟩

/-- acceptFramer: dropped with the command's condition, or latched with what acceptance sets; nothing else. -/
theorem acceptFramer_cases (cmd : FramerCmd) (s : State) :
    (∃ job, s.framerJob = some job ∧ acceptFramer cmd s = s.raise cmd.dropCondition) ∨
      (s.framerJob = none ∧
        acceptFramer cmd s = cmd.onAccept { s with framerJob := some { cmd := cmd, m := 0, pending := none } }) := by
  unfold acceptFramer
  cases h : s.framerJob with
  | none => exact .inr ⟨rfl, rfl⟩
  | some job => exact .inl ⟨job, rfl, rfl⟩

/-- A draw turn: none, one plot, or the completion. -/
theorem drawStep_cases (s : State) :
    (s.drawJob = none ∧ drawStep s = s) ∨
      (∃ job p, s.drawJob = some job ∧ job.cmd.points[job.k]? = some p ∧
        drawStep s = { s.plot p (job.cmd.penColor job.color) with drawJob := some { job with k := job.k + 1 } }) ∨
      ∃ job, s.drawJob = some job ∧ job.cmd.points.length ≤ job.k ∧ drawStep s = drawComplete job s := by
  unfold drawStep
  cases h : s.drawJob with
  | none => exact .inl ⟨rfl, rfl⟩
  | some job =>
    dsimp only
    cases hp : job.cmd.points[job.k]? with
    | none => exact .inr (.inr ⟨job, rfl, List.getElem?_eq_none_iff.mp hp, rfl⟩)
    | some p => exact .inr (.inl ⟨job, p, rfl, hp, rfl⟩)

theorem drawComplete_eq (job : DrawJob) (s : State) :
    drawComplete job s = { s with
      drawJob := none
      sticky := s.sticky ||| Condition.drawDone.mask
      cursor := if job.cmd = .clear then 0#32 else s.cursor } := by
  unfold drawComplete
  cases h : job.cmd <;> simp [State.raise]

theorem framerAbort_eq (s : State) :
    framerAbort s = { s with
      framerJob := none
      guard := false
      sticky := s.sticky ||| Condition.errTransport.mask ||| Condition.framerDone.mask } := rfl

theorem framerComplete_eq (cmd : FramerCmd) (s : State) :
    framerComplete cmd s = { s with
      framerJob := none
      guard := if cmd = .refresh then false else s.guard
      sticky := if cmd = .refresh then s.sticky ||| Condition.framerDone.mask ||| Condition.refreshOk.mask
        else s.sticky ||| Condition.framerDone.mask } := by
  unfold framerComplete
  cases cmd <;> simp [State.raise]

/-- A framer turn: none, or the micro-operation m. -/
theorem framerStep_cases (s : State) :
    framerStep s = s ∨
      ∃ job op, s.framerJob = some job ∧ job.pending = none ∧ job.cmd.microOps[job.m]? = some op ∧
        framerStep s = microStep job op s := by
  unfold framerStep
  cases h : s.framerJob with
  | none => exact .inl rfl
  | some job =>
    dsimp only
    cases hp : job.pending with
    | some r => exact .inl rfl
    | none =>
      dsimp only
      cases ho : job.cmd.microOps[job.m]? with
      | none => exact .inl rfl
      | some op => exact .inr ⟨job, op, rfl, hp, ho, rfl⟩

/-- A Transport turn: none, or the answer to the outstanding request. -/
theorem transportStep_cases (o : Answer) (s : State) :
    (s.pending = none ∧ transportStep o s = s) ∨
      ∃ job r, s.framerJob = some job ∧ job.pending = some r ∧
        transportStep o s = match o with
          | .ok => { s with
              framerJob := some { job with m := job.m + 1, pending := none }
              busOpen := if r = .openBus then true else s.busOpen
              trace := s.trace ++ [.ans .ok] }
          | .fail => framerAbort { s with trace := s.trace ++ [.ans .fail] } := by
  unfold transportStep State.pending
  cases h : s.framerJob with
  | none => exact .inl ⟨rfl, rfl⟩
  | some job =>
    dsimp only
    cases hp : job.pending with
    | none => exact .inl ⟨hp, rfl⟩
    | some r =>
      refine .inr ⟨job, r, rfl, hp, ?_⟩
      cases o
      · cases r <;> rfl
      · rfl

/-- A host access: a bus error, a read, a window write, or a register write, with the answer recorded. -/
theorem afterAccess_cases (a : Access) (s : State) :
    (∃ r, afterAccess a s = { s with response := some r }) ∨
      (∃ i, addressMap a.offset a.size = some (.window i) ∧ a.dir = .write ∧
        afterAccess a s =
          { s with response := some ⟨.okay, 0#32⟩, fb := Memory.writeLanes s.fb i a.size.bytes a.wdata }) ∨
      ∃ r, addressMap a.offset a.size = some (.reg r) ∧ a.dir = .write ∧
        afterAccess a s = afterWriteReg r a.wdata { s with response := some ⟨.okay, 0#32⟩ } := by
  unfold afterAccess
  cases h : addressMap a.offset a.size with
  | none => exact .inl ⟨_, rfl⟩
  | some t =>
    cases hd : a.dir with
    | read => exact .inl ⟨_, rfl⟩
    | write =>
      cases t with
      | window i => exact .inr (.inl ⟨i, rfl, rfl, rfl⟩)
      | reg r => exact .inr (.inr ⟨r, rfl, rfl, rfl⟩)

/-- A window target lies inside FB. -/
theorem addressMap_window {a : Nat} {n : Size} {i : Nat} (h : addressMap a n = some (.window i)) :
    i + n.bytes ≤ Config.fbBytes ∧ a = Config.windowBase + i ∧ a % n.bytes = 0 := by
  unfold addressMap at h
  split at h
  · split at h
    · next h1 h2 =>
      obtain ⟨rfl⟩ : a - Config.windowBase = i := by simpa using h
      simp only [Config.windowBase, Config.hostSpaceEnd, Config.fbBytes] at *
      omega
    · simp at h
  · cases n <;> simp at h

/-- A register target is reached by a 4-byte access at its own offset. -/
theorem addressMap_reg {a : Nat} {n : Size} {r : Reg} (h : addressMap a n = some (.reg r)) :
    n = .four ∧ a = r.offset := by
  unfold addressMap at h
  split at h
  · split at h <;> simp at h
  · cases n <;> simp at h
    refine ⟨rfl, ?_⟩
    unfold regAt at h
    split at h <;> simp_all [Reg.offset] <;> subst h <;> rfl

theorem addressMap_offset (r : Reg) : addressMap r.offset .four = some (.reg r) := by cases r <;> rfl

end Sys2Proof.Machine
end

