-- ==== Sys2Proof/Laws/Effects.lean ====
section
/-! SUPPORT. All that a command and a host access can do to State, said once: the cases an invariant proof or a frame
proof has to look at. -/

namespace Sys2Proof.Machine

/-- All that issuing a command can do: record conditions, give the idle draw engine a job, or give the idle framer
one. -/
inductive IssueEffect (s : State) : State → Prop
  | record (b : BitVec 10) : IssueEffect s { s with sticky := s.sticky ||| b }
  | draw (cmd : DrawCmd) (idle : s.drawJob = none) :
      IssueEffect s { s with drawJob := some { cmd := cmd, color := s.color565, k := 0 } }
  | framer (cmd : FramerCmd) (b : BitVec 10) (idle : s.framerJob = none)
      (clock : ∀ clk, cmd = .busOpen clk → clk = s.clockHz)
      (payload : ∀ op p, cmd = .sendcmd op p → p.length ≤ Config.payloadMax) :
      IssueEffect s
        { s with
          framerJob := some { cmd := cmd, m := 0, pending := none }
          sticky := s.sticky ||| b
          guard := if cmd = .refresh then true else s.guard }

theorem acceptDraw_effect (cmd : DrawCmd) (s : State) : IssueEffect s (acceptDraw cmd s) := by
  rcases acceptDraw_cases cmd s with ⟨_, _, h⟩ | ⟨h, e⟩
  · rw [h]; exact .record _
  · rw [e]; exact .draw cmd h

theorem acceptFramer_effect (cmd : FramerCmd) (s : State) (clock : ∀ clk, cmd = .busOpen clk → clk = s.clockHz)
    (payload : ∀ op p, cmd = .sendcmd op p → p.length ≤ Config.payloadMax) : IssueEffect s (acceptFramer cmd s) := by
  rcases acceptFramer_cases cmd s with ⟨_, _, h⟩ | ⟨h, e⟩
  · rw [h]; exact .record _
  · rw [e]
    have zero : s.sticky = s.sticky ||| 0#10 := by simp
    have key := fun b => IssueEffect.framer (s := s) cmd b h clock payload
    cases cmd with
    | contrast v =>
      simp only [FramerCmd.onAccept]
      split
      · exact key _
      · have := key 0#10; rw [← zero] at this; exact this
    | refresh | sendcmd | vscroll | busOpen | busClose => have := key 0#10; rw [← zero] at this; exact this

theorem length_payloadBytes (s : State) : s.payloadBytes.length = 16 := rfl

theorem afterExec_effect (i : Instr) (s : State) : IssueEffect s (afterExec i s) := by
  cases i with
  | plot | line | rect | fillRect | circle | fillCircle | clear => exact acceptDraw_effect _ s
  | sendcmd =>
    unfold afterExec
    dsimp only
    split
    · exact .record _
    · refine acceptFramer_effect _ s (by simp [State.sendcmdOperands]) ?_
      simp only [State.sendcmdOperands, FramerCmd.sendcmd.injEq]
      rintro op p ⟨-, rfl⟩
      simp only [List.length_take, length_payloadBytes, Config.payloadMax]
      omega
  | refresh | contrast | vscroll | busOpen | busClose =>
    exact acceptFramer_effect _ s
      (by simp [State.contrastOperands, State.vscrollOperands, State.busOpenOperands])
      (by simp [State.contrastOperands, State.vscrollOperands, State.busOpenOperands])

/-- All that a host access can do, its answer aside. -/
inductive HostEffect (a : Access) (s : State) : State → Prop
  | idle : HostEffect a s s
  | window (i : Nat) (dir : a.dir = .write) (place : a.offset = Config.windowBase + i)
      (inside : i + a.size.bytes ≤ Config.fbBytes) :
      HostEffect a s { s with fb := Memory.writeLanes s.fb i a.size.bytes a.wdata }
  | ctrl (c : Ctrl) :
      HostEffect a s { s with ctrl := c, trace := s.trace ++ pinEvents { s with ctrl := c } s }
  | acknowledge (v : Word) (place : a.offset = Reg.offset .status) (dir : a.dir = .write) (size : a.size = .four)
      (data : a.wdata = v) :
      HostEffect a s { s with sticky := s.sticky &&& ~~~(v.extractLsb' 8 10) }
  | clock (v : Word) : HostEffect a s { s with clockHz := v &&& 0xFFFF0000#32 }
  | operand (irqEn : BitVec 10) (color565 : Half) (cursor arg0 arg1 payload0 payload1 payload2 payload3 : Word) :
      HostEffect a s
        { s with
          irqEn := irqEn
          color565 := color565
          cursor := cursor
          arg0 := arg0
          arg1 := arg1
          payload0 := payload0
          payload1 := payload1
          payload2 := payload2
          payload3 := payload3 }
  | issue (t : State) (effect : IssueEffect s t) : HostEffect a s t

theorem afterCommand_effect (v : Word) (s : State) : IssueEffect s (afterCommand v s) := by
  unfold afterCommand
  split
  · exact afterExec_effect _ s
  · exact .record _

/-- A host access answers, and its effect is one of those above. -/
theorem afterAccess_effect (a : Access) (s : State) :
    ∃ r, HostEffect a { s with response := r } (afterAccess a s) := by
  rcases afterAccess_cases a s with ⟨r, h⟩ | ⟨i, hm, hd, h⟩ | ⟨r, hm, hd, h⟩
  · exact ⟨some r, h ▸ .idle⟩
  · obtain ⟨h1, h2, -⟩ := addressMap_window hm
    exact ⟨some ⟨.okay, 0#32⟩, h ▸ .window i hd h2 h1⟩
  · obtain ⟨hs, ho⟩ := addressMap_reg hm
    refine ⟨some ⟨.okay, 0#32⟩, h ▸ ?_⟩
    cases r with
    | params => exact .idle
    | ctrl => simp only [afterWriteReg, State.writeCtrl_eq]; exact .ctrl _
    | status => exact .acknowledge _ ho hd hs rfl
    | clockHz => exact .clock _
    | colorRgb | irqEn | color565 | cursor | arg0 | arg1 | payload0 | payload1 | payload2 | payload3 =>
      exact .operand _ _ _ _ _ _ _ _ _
    | cmd => exact .issue _ (afterCommand_effect _ _)

end Sys2Proof.Machine
end

