-- ==== Sys2Proof/Laws/HostProgram.lean ====
section
/-! SUPPORT. What the ARG0 word of SEND says: the opcode and the payload length it was built from, so that every SEND of
the host's procedures is a well-formed SENDCMD. -/

namespace Sys2Proof.Machine

/-- ARG0[7:0] is the opcode. -/
theorem sendArg0_opcode (op : Byte) (p : SendPayload) : (sendArg0 op p).extractLsb' 0 8 = op := by
  unfold sendArg0
  exact BitVec.extractLsb'_append_eq_right

/-- ARG0 as a number: the payload length times 256, plus the opcode. -/
theorem sendArg0_toNat (op : Byte) (p : SendPayload) :
    (sendArg0 op p).toNat = p.val.length * 256 + op.toNat := by
  have hp : p.val.length ≤ 16 := p.property
  unfold sendArg0
  rw [BitVec.toNat_append, BitVec.toNat_append, BitVec.toNat_ofNat, BitVec.toNat_ofNat,
    ← Nat.shiftLeft_add_eq_or_of_lt op.isLt]
  have : (0 % 2 ^ 16) <<< 8 ||| p.val.length % 2 ^ 8 = p.val.length := by
    simp; omega
  rw [this, Nat.shiftLeft_eq]

/-- ARG0[12:8] is the payload length. -/
theorem sendArg0_length (op : Byte) (p : SendPayload) :
    ((sendArg0 op p).extractLsb' 8 5).toNat = p.val.length := by
  have hp : p.val.length ≤ 16 := p.property
  have hop := op.isLt
  rw [BitVec.extractLsb'_toNat, sendArg0_toNat, Nat.shiftRight_eq_div_pow]
  omega

/-- SEND issues a well-formed SENDCMD (R118). -/
theorem sendArg0_wellFormed (op : Byte) (p : SendPayload) : Instr.wellFormed .sendcmd (sendArg0 op p) = true := by
  unfold Instr.wellFormed
  dsimp only
  rw [sendArg0_length]
  exact decide_eq_true p.property

end Sys2Proof.Machine
end

