-- ==== Sys2Proof/Laws/PerInstr.lean ====
section
/-! SUPPORT. Statements about every instruction as syntax, one lemma per constructor. -/

namespace Sys2Proof.Laws

/-- The command word of an instruction is well formed: RSVD is zero and its code is not one of the reserved codes of
spec/30_encoding.md R122, as WellFormed.lean writes them down. -/
def EncodingForm.Statement (i : Instr) : Prop :=
  commandWordWellFormed (encode i) = true ∧ (encode i).extractLsb' 8 24 = 0#24 ∧
    reservedCode ((encode i).extractLsb' 0 8) = false

theorem EncodingForm.plot : EncodingForm.Statement .plot := by unfold EncodingForm.Statement; decide
theorem EncodingForm.line : EncodingForm.Statement .line := by unfold EncodingForm.Statement; decide
theorem EncodingForm.rect : EncodingForm.Statement .rect := by unfold EncodingForm.Statement; decide
theorem EncodingForm.fillRect : EncodingForm.Statement .fillRect := by unfold EncodingForm.Statement; decide
theorem EncodingForm.circle : EncodingForm.Statement .circle := by unfold EncodingForm.Statement; decide
theorem EncodingForm.fillCircle : EncodingForm.Statement .fillCircle := by unfold EncodingForm.Statement; decide
theorem EncodingForm.clear : EncodingForm.Statement .clear := by unfold EncodingForm.Statement; decide
theorem EncodingForm.refresh : EncodingForm.Statement .refresh := by unfold EncodingForm.Statement; decide
theorem EncodingForm.sendcmd : EncodingForm.Statement .sendcmd := by unfold EncodingForm.Statement; decide
theorem EncodingForm.contrast : EncodingForm.Statement .contrast := by unfold EncodingForm.Statement; decide
theorem EncodingForm.vscroll : EncodingForm.Statement .vscroll := by unfold EncodingForm.Statement; decide
theorem EncodingForm.busOpen : EncodingForm.Statement .busOpen := by unfold EncodingForm.Statement; decide
theorem EncodingForm.busClose : EncodingForm.Statement .busClose := by unfold EncodingForm.Statement; decide

end Sys2Proof.Laws
end

