-- ==== Sys2Proof/Tests/Slice0.lean ====
section
/-! SUPPORT. Tests on small states, each expected value written out from the spec (spec/95_test_vectors.md where a
vector is named), and one witness for the hypotheses of each statement that has some. -/

namespace Sys2Proof.Tests

open Sys2Proof Sys2Proof.Machine

/-! ## Decoding: command words written out from spec/30_encoding.md R112 and R121 (RSVD, then CODE) -/

theorem test_decode_plot : decode (0#24 ++ 0b00000001#8) = .ok .plot := by decide
theorem test_decode_line : decode (0#24 ++ 0b00000010#8) = .ok .line := by decide
theorem test_decode_rect : decode (0#24 ++ 0b00000011#8) = .ok .rect := by decide
theorem test_decode_fillRect : decode (0#24 ++ 0b00000100#8) = .ok .fillRect := by decide
theorem test_decode_circle : decode (0#24 ++ 0b00000101#8) = .ok .circle := by decide
theorem test_decode_fillCircle : decode (0#24 ++ 0b00000110#8) = .ok .fillCircle := by decide
theorem test_decode_clear : decode (0#24 ++ 0b00000111#8) = .ok .clear := by decide
theorem test_decode_refresh : decode (0#24 ++ 0b00100000#8) = .ok .refresh := by decide
theorem test_decode_sendcmd : decode (0#24 ++ 0b00100001#8) = .ok .sendcmd := by decide
theorem test_decode_contrast : decode (0#24 ++ 0b00100010#8) = .ok .contrast := by decide
theorem test_decode_vscroll : decode (0#24 ++ 0b00100011#8) = .ok .vscroll := by decide
theorem test_decode_busOpen : decode (0#24 ++ 0b00100100#8) = .ok .busOpen := by decide
theorem test_decode_busClose : decode (0#24 ++ 0b00100101#8) = .ok .busClose := by decide

/-- D-DIS-2: reserved codes, at both ends of each range of R122. -/
theorem test_decode_rejects_reserved_codes :
    decode 0x00#32 = .error .reservedCode ∧ decode 0x08#32 = .error .reservedCode ∧
      decode 0x1F#32 = .error .reservedCode ∧ decode 0x26#32 = .error .reservedCode ∧
      decode 0xFF#32 = .error .reservedCode := by decide

/-- D-DIS-3, D-DIS-4: nonzero RSVD. -/
theorem test_decode_rejects_reserved_bits :
    decode 0x00000101#32 = .error .reservedBits ∧ decode 0x80000002#32 = .error .reservedBits := by decide

theorem test_decodeTableWord :
    decodeTableWord 32 0x21 = some .sendcmd ∧ decodeTableWord 8 0x25 = some .busClose ∧
      decodeTableWord 32 0x26 = none ∧ decodeTableWord 32 0x10000001 = none := by decide

/-! ## WellFormed: an ill-formed term for each check -/

theorem test_wellFormed_reserved_bits :
    commandWordWellFormed 0x00000101#32 = false ∧ commandWordWellFormed 0x80000002#32 = false ∧
      commandWordWellFormed 0x00000001#32 = true := by decide

theorem test_wellFormed_reserved_code :
    commandWordWellFormed 0x00#32 = false ∧ commandWordWellFormed 0x08#32 = false ∧
      commandWordWellFormed 0x1F#32 = false ∧ commandWordWellFormed 0x26#32 = false ∧
      commandWordWellFormed 0xFF#32 = false := by decide

/-- D-DIS-5: SENDCMD with len = 17; R118: len = 16 is legal. -/
theorem test_wellFormed_payload_length :
    Instr.wellFormed .sendcmd 0x000011B8#32 = false ∧ Instr.wellFormed .sendcmd 0x000010B8#32 = true := by decide

/-! ## One step or one operation -/

/-- The state a run along these turns leaves, from s. -/
def after (ts : List Turn) (s : State) : State :=
  match runTurns ts s with
  | .next t => t
  | .fault _ | .refused _ => s

/-- The state after the next step. -/
def afterStep (s : State) : State :=
  match step s with
  | .next t => t
  | .fault _ | .refused _ => s

/-- The reset state with ARG0 and ARG1 set. -/
def withArgs (a b : Word) : State := { State.reset with arg0 := a, arg1 := b }

/-- The reset state with the bus open and both pins driven (the "open bus" of spec/95_test_vectors.md). -/
def openBus : State :=
  { State.reset with busOpen := true, ctrl := { rstLevel := true, rstOe := true, dcOe := true } }

/-- A read of n bytes at an offset, as its answer. -/
def readBack (offset : Nat) (n : Size) (s : State) : Option Response :=
  (after [.host { dir := .read, offset := offset, size := n, wdata := 0#32 }] s).response

/-- A write of v at an offset. -/
def written (offset : Nat) (n : Size) (v : Word) (s : State) : State :=
  after [.host { dir := .write, offset := offset, size := n, wdata := v }] s

theorem test_reset_memory_wf : Memory.wf State.reset.fb := by decide

/-- R153's example: (3, 2) is latched from ARG0 = 0x00020003. -/
theorem test_plot_operands :
    (afterStep ((withArgs 0x00020003#32 0#32).withFetchWord 32 0x01)).drawJob =
      some { cmd := .plot 3 2, color := 0#16, k := 0 } := by decide

/-- R153's example: FB[0x206] = 0xFA, FB[0x207] = 0x81. -/
theorem test_plot_bytes :
    (State.reset.plot ⟨3, 2⟩ 0xFA81#16).fb = [(0x206, 0xFA#8), (0x207, 0x81#8)] := by decide

/-- R151's examples: (-1, 1) writes pixel (127, 0), and (-1, 0) and (0, 128) write nothing; each sets COORD_RANGE. -/
theorem test_plot_off_grid :
    (State.reset.plot ⟨-1, 1⟩ 0xFA81#16).fb = [(254, 0xFA#8), (255, 0x81#8)] ∧
      (State.reset.plot ⟨-1, 0⟩ 0xFA81#16).fb = [] ∧ (State.reset.plot ⟨0, 128⟩ 0xFA81#16).fb = [] ∧
      (State.reset.plot ⟨0, 128⟩ 0xFA81#16).statusWord = 0x00008000#32 := by decide

/-- R117's examples: 0x0002FFFF is (-1, 2) and 0xFFFC0003 is (3, -4). -/
theorem test_line_operands :
    (afterStep ((withArgs 0x0002FFFF#32 0xFFFC0003#32).withFetchWord 32 0x02)).drawJob =
      some { cmd := .line (-1) 2 3 (-4), color := 0#16, k := 0 } := by decide

/-- R155's example, and R158's pair whose reverse differs. -/
theorem test_line_points :
    linePoints 0 0 3 2 = [⟨0, 0⟩, ⟨1, 1⟩, ⟨2, 1⟩, ⟨3, 2⟩] ∧ linePoints 0 0 1 2 = [⟨0, 0⟩, ⟨0, 1⟩, ⟨1, 2⟩] ∧
      linePoints 1 2 0 0 = [⟨1, 2⟩, ⟨1, 1⟩, ⟨0, 0⟩] := by decide

/-- R159's example, and R160's w = h = 0. -/
theorem test_rect_points :
    rectPoints 0 0 3 2 =
        [⟨0, 0⟩, ⟨1, 0⟩, ⟨2, 0⟩, ⟨2, 0⟩, ⟨2, 1⟩, ⟨2, 1⟩, ⟨1, 1⟩, ⟨0, 1⟩, ⟨0, 1⟩, ⟨0, 0⟩] ∧
      (⟨4, 6⟩ : Point) ∈ rectPoints 5 7 0 0 := by decide

/-- R161's example and empty range. -/
theorem test_fillRect_points :
    fillRectPoints 5 5 2 2 = [⟨5, 5⟩, ⟨6, 5⟩, ⟨5, 6⟩, ⟨6, 6⟩] ∧ fillRectPoints 5 5 (-1) 2 = [] := by decide

/-- R164's tables. -/
theorem test_circle_steps :
    circleSteps 3 = [⟨3, 0⟩, ⟨3, 1⟩, ⟨3, 2⟩] ∧
      circleSteps 5 = [⟨5, 0⟩, ⟨5, 1⟩, ⟨5, 2⟩, ⟨4, 3⟩, ⟨4, 4⟩] ∧ circleSteps (-1) = [] := by decide

/-- R163's example: 16 points, not the centre. -/
theorem test_circle_points :
    (circlePoints 10 10 1).length = 16 ∧ (⟨10, 10⟩ : Point) ∉ circlePoints 10 10 1 := by decide

/-- R165's example: (-1, 1) is plotted. -/
theorem test_fillCircle_points :
    (⟨-1, 1⟩ : Point) ∈ fillCirclePoints 0 0 1 ∧ (⟨2, 0⟩ : Point) ∉ fillCirclePoints 0 0 1 := by decide

/-- R168: CLEAR's completion step clears the cursor. -/
theorem test_clear_completes :
    (drawComplete { cmd := .clear, color := 0x1234#16, k := 16384 } { State.reset with cursor := 0x8000FFFF#32 }).cursor =
      0#32 := by decide

/-- D-DIS-6: a second LINE with no draw step between is dropped. -/
theorem test_overrun :
    (afterStep ({ State.reset with drawJob := some { cmd := .clear, color := 0#16, k := 0 } }.withFetchWord 32
      0x02)).statusWord = 0x00002001#32 := by decide

/-- S-REFRESH-1: acceptance gives STATUS = 0xE, and a second REFRESH 0x80E. -/
theorem test_refresh_accepts_then_rejects :
    (afterStep (openBus.withFetchWord 32 0x20)).statusWord = 0x0000000E#32 ∧
      (afterStep ((afterStep (openBus.withFetchWord 32 0x20)).withFetchWord 32 0x20)).statusWord =
        0x0000080E#32 := by decide

/-- R213: 20 micro-operations. -/
theorem test_refresh_microOps : FramerCmd.refresh.microOps.length = 20 := by decide

/-- R211's example: SEND 0xFD, [0x12]. -/
theorem test_sendcmd_trace :
    (after (answeredRounds [.ok, .ok, .ok, .ok, .ok])
      { openBus with framerJob := some { cmd := .sendcmd 0xFD#8 [0x12#8], m := 0, pending := none } }).trace =
      [.dc .low, .xfer .low [0xFD#8], .ans .ok, .dc .high, .xfer .high [0x12#8], .ans .ok] := by decide

/-- D-CON-1, D-CON-5: CONTRAST -5 and 256 are accepted with their warnings. -/
theorem test_contrast_warnings :
    (afterStep ({ openBus with arg0 := 0xFFFFFFFB#32 }.withFetchWord 32 0x22)).statusWord = 0x0001000A#32 ∧
      (afterStep ({ openBus with arg0 := 0x00000100#32 }.withFetchWord 32 0x22)).statusWord = 0x0002000A#32 := by
  decide

/-- D-CON-4, D-CON-7: the clamp. -/
theorem test_contrast_clamp :
    clampContrast 255 = 0xFF#8 ∧ clampContrast (-2147483648) = 0x00#8 ∧ clampContrast 1000 = 0xFF#8 := by decide

/-- R219: VSCROLL takes ARG0[7:0] alone. -/
theorem test_vscroll_operand :
    (afterStep ((withArgs 0x12345680#32 0#32).withFetchWord 32 0x23)).framerJob =
      some { cmd := .vscroll 0x80#8, m := 0, pending := none } := by decide

/-- R220's example: after reset, BUS_OPEN emits Open(19660800). -/
theorem test_busOpen_event :
    (afterStep (afterStep (State.reset.withFetchWord 32 0x24))).trace = [.openBus 19660800#32] := by decide

/-- R221: the Close step closes the bus before the answer. -/
theorem test_busClose_event :
    (afterStep (afterStep (openBus.withFetchWord 32 0x25))).trace = [.closeBus] ∧
      (afterStep (afterStep (openBus.withFetchWord 32 0x25))).busOpen = false := by decide

/-- D-CON-9: a transfer on a closed bus aborts with no event. -/
theorem test_abort_on_closed_bus :
    (after (answeredRounds [.ok, .ok])
      { State.reset with framerJob := some { cmd := .contrast 1000, m := 0, pending := none } }).statusWord =
      0x00001200#32 := by decide

/-- D-REG-1, D-REG-3. -/
theorem test_reset_reads :
    readBack 0x0000 .four State.reset = some ⟨.okay, 0x10C28080#32⟩ ∧
      readBack 0x0010 .four State.reset = some ⟨.okay, 0x012C0000#32⟩ := by decide

/-- D-REG-7, S-CLOCK-1. -/
theorem test_register_write :
    readBack 0x000C .four (written 0x000C .four 0xFFFFFFFF#32 State.reset) = some ⟨.okay, 0x0003FF00#32⟩ ∧
      readBack 0x0010 .four (written 0x0010 .four 0x01312D00#32 State.reset) = some ⟨.okay, 0x01310000#32⟩ := by
  decide

/-- D-W1C-1 from STATUS = 0x8100. -/
theorem test_status_write_one_to_clear :
    (written 0x0008 .four 0x00000100#32 { State.reset with sticky := 0x081#10 }).statusWord = 0x00008000#32 := by decide

/-- D-BUS-1 to D-BUS-6. -/
theorem test_bus_errors :
    ∀ a ∈ [(0x0028, Size.four), (0x0044, .four), (0x7FFC, .four), (0x0002, .four), (0x0000, .two), (0x0000, .one),
        (0x8001, .two), (0x8002, .four), (0x10000, .one)],
      readBack a.1 a.2 State.reset = some ⟨.busError, 0#32⟩ := by decide

/-- D-MEM-1, D-MEM-3, D-MEM-5. -/
theorem test_window_lanes :
    (written 0x8000 .four 0x11223344#32 State.reset).fb = [(0, 0x44#8), (1, 0x33#8), (2, 0x22#8), (3, 0x11#8)] ∧
      readBack 0x8002 .two (written 0x8000 .four 0x11223344#32 State.reset) = some ⟨.okay, 0x1122#32⟩ ∧
      (written 0x8010 .two 0xABCD#32 State.reset).fb = [(16, 0xCD#8), (17, 0xAB#8)] := by decide

/-- D-COL-8, D-COL-12, D-COL-14. -/
theorem test_color_conversion :
    toPanelColor 0x00FF530D#32 = 0xFA81#16 ∧ toPanelColor 0xAB001C00#32 = 0x00E0#16 ∧
      toPanelColor 0x00002000#32 = 0x0100#16 := by decide

/-- D-PIN-10: from reset, W CTRL, 0x6 emits Rst(0), then Dc(1). -/
theorem test_ctrl_events :
    (written 0x0004 .four 0x6#32 State.reset).trace = [.rst .low, .dc .high] := by decide

/-- D-IRQ-2, D-IRQ-3. -/
theorem test_irq :
    State.irq { State.reset with irqEn := 0x001#10, sticky := 0x001#10 } = true ∧
      State.irq { State.reset with irqEn := 0x001#10, sticky := 0x080#10 } = false := by decide

/-- D-RST-1, D-RST-2, D-RST-3. -/
theorem test_block_reset :
    after [.reset [(0, 0x5A#8), (32768, 0x01#8)]] { openBus with clockHz := 0x01310000#32, guard := true } =
      { State.reset with fb := [(0, 0x5A#8)], trace := [.reset] } := by decide

/-- R130: SEND 0xFD, [0x12] expands to the accesses of P2 in spec/95_test_vectors.md. -/
theorem test_send_program :
    sendProgram 0xFD#8 ⟨[0x12#8], by decide⟩ =
      [writeAccess .payload0 0x00000012#32, writeAccess .arg0 0x000001FD#32, writeAccess .cmd 0x00000021#32] := by decide

/-! ## Witnesses: states and operands that meet the hypotheses of each statement, clause by clause -/

/-- A busy draw engine: the command, at index k. -/
def drawing (cmd : DrawCmd) (k : Nat) : State :=
  { State.reset with drawJob := some { cmd := cmd, color := 0xFA81#16, k := k } }

/-- A busy framer on an open bus: the command, at micro-operation m, awaiting an answer or not. -/
def framing (cmd : FramerCmd) (m : Nat) (pending : Option Request) : State :=
  { openBus with
    guard := if cmd = .refresh then true else false
    framerJob := some { cmd := cmd, m := m, pending := pending } }

theorem witness_DecodeInvertsEncode : decode 0x25#32 = .ok .busClose ∧ (0x25#32 : Word) = encode .busClose := by decide

theorem witness_StepIssuesTheDecodedCommand :
    decode 0x00000001#32 = .ok .plot ∧
      { State.reset with agenda := [.host { dir := .write, offset := 0x0040, size := .four, wdata := 0x00000001#32 }] }.agenda
        = .host { dir := .write, offset := 0x0040, size := .four, wdata := 0x00000001#32 } :: [] := by decide

theorem witness_ReservedWordRecordsBadCommand :
    (0x00000101#32 : Word).extractLsb' 8 24 ≠ 0#24 ∧ ((0x00#32 : Word).extractLsb' 0 8).toNat = 0x00 ∧
      0x08 ≤ ((0x08#32 : Word).extractLsb' 0 8).toNat ∧ ((0x1F#32 : Word).extractLsb' 0 8).toNat ≤ 0x1F ∧
      0x26 ≤ ((0x26#32 : Word).extractLsb' 0 8).toNat := by decide

theorem witness_LongSendcmdRecordsBadCommand :
    16 < ((withArgs 0x00001100#32 0#32).arg0.extractLsb' 8 5).toNat ∧ Instr.wellFormed .sendcmd 0x00001100#32 = false := by
  decide

theorem witness_DrawCommandsAreAccepted : State.reset.drawJob = none := by decide

theorem witness_FramerCommandsAreAccepted :
    (withArgs 0x00001000#32 0#32).framerJob = none ∧
      ((withArgs 0x00001000#32 0#32).arg0.extractLsb' 8 5).toNat ≤ 16 := by decide

theorem witness_BusyEngineDropsTheCommand :
    (drawing .clear 0).drawJob ≠ none ∧ (framing .refresh 0 none).framerJob ≠ none ∧
      ((framing .refresh 0 none).arg0.extractLsb' 8 5).toNat ≤ 16 := by decide

theorem witness_IssueChangesOnlyItsEngine :
    (∃ t, exec .plot State.reset = .next t) ∧ (∃ t, exec .plot (drawing .clear 0) = .next t ∧ (drawing .clear 0).drawJob ≠ none) ∧
      ∃ t, exec .refresh (framing .busClose 0 none) = .next t ∧ (framing .busClose 0 none).framerJob ≠ none :=
  ⟨⟨_, rfl⟩, ⟨_, rfl, by decide⟩, ⟨_, rfl, by decide⟩⟩

/-- D-REG-4: a read of CMD returns 0 and issues nothing, also while an engine is busy and after a CMD write. -/
theorem test_cmd_reads_zero :
    readBack 0x0040 .four (drawing .clear 0) = some ⟨.okay, 0#32⟩ ∧
      readBack 0x0040 .four (written 0x0040 .four 0x20#32 State.reset) = some ⟨.okay, 0#32⟩ := by decide

theorem witness_RegisterWriteLeavesOthersAlone :
    Reg.ctrl ≠ .cmd ∧ Reg.colorRgb ≠ .cmd ∧
      (∃ t, hostAccess { dir := .write, offset := Reg.offset .ctrl, size := .four, wdata := 0x6#32 } State.reset = .next t) ∧
      ∃ t, hostAccess { dir := .write, offset := Reg.offset .colorRgb, size := .four, wdata := 0xFF#32 } State.reset = .next t :=
  ⟨by decide, by decide, ⟨_, rfl⟩, ⟨_, rfl⟩⟩

/-- Each way in and out of the map, at its boundary offsets; no value falls under both clauses. -/
theorem witness_AccessIsRefusedExactlyOffTheMap :
    readBack 0xFFFF .one State.reset = some ⟨.okay, 0#32⟩ ∧ readBack 0x10000 .one State.reset = some ⟨.busError, 0#32⟩ ∧
      readBack 0xFFFC .four State.reset = some ⟨.okay, 0#32⟩ ∧ readBack 0xFFFE .four State.reset = some ⟨.busError, 0#32⟩ ∧
      readBack 0x0024 .four State.reset = some ⟨.okay, 0#32⟩ ∧ readBack 0x0028 .four State.reset = some ⟨.busError, 0#32⟩ ∧
      readBack 0x002C .four State.reset = some ⟨.busError, 0#32⟩ ∧ readBack 0x0030 .four State.reset = some ⟨.okay, 0#32⟩ ∧
      readBack 0x0040 .four State.reset = some ⟨.okay, 0#32⟩ ∧ readBack 0x0044 .four State.reset = some ⟨.busError, 0#32⟩ ∧
      readBack 0x7FFC .four State.reset = some ⟨.busError, 0#32⟩ ∧ readBack 0x8000 .four State.reset = some ⟨.okay, 0#32⟩ := by
  decide

theorem witness_StickyBitsFallOnlyByHostOrReset :
    let s : State := { State.reset with sticky := 0x200#10 }
    let h : State := { s with agenda := [.host { dir := .write, offset := 0x0008, size := .four, wdata := 0x20000#32 }] }
    let r : State := { s with agenda := [.reset []] }
    step h = .next (afterStep h) ∧ h.has .warnContrastHi = true ∧ (afterStep h).has .warnContrastHi = false ∧
      step r = .next (afterStep r) ∧ r.has .warnContrastHi = true ∧ (afterStep r).has .warnContrastHi = false :=
  ⟨rfl, by decide, by decide, rfl, by decide, by decide⟩

theorem reset_fbInv : State.reset.FbInv := by unfold State.FbInv; decide

theorem witness_WindowReadReturnsLanes :
    0x8000 ≤ 0xFFFC ∧ 0xFFFC + Size.four.bytes ≤ 0x10000 ∧ 0xFFFC % Size.four.bytes = 0 := by decide

theorem witness_WindowWriteStoresLanes :
    State.reset.FbInv ∧ 0x8000 ≤ 0xFFFF ∧ 0xFFFF + Size.one.bytes ≤ 0x10000 ∧ 0xFFFF % Size.one.bytes = 0 :=
  ⟨reset_fbInv, by decide⟩

/-- The last pixel of the grid, the two points next to FB, and a wrapped one. -/
theorem witness_PlotWritesThePixelItsIndexNames :
    State.reset.FbInv ∧ Point.index ⟨127, 127⟩ = 32766 ∧ Point.index ⟨-1, 0⟩ < 0 ∧ 32768 ≤ Point.index ⟨0, 128⟩ ∧
      Point.index ⟨128, 0⟩ = 256 :=
  ⟨reset_fbInv, by decide⟩

/-- D-MEM-7: WH 0x8206, 0x81FA makes pixel (3, 2) the colour 0xFA81. -/
theorem test_window_pixel_write :
    (written 0x8206 .two 0x81FA#32 State.reset).fb = [(0x206, 0xFA#8), (0x207, 0x81#8)] := by decide

theorem witness_PlottedPixelReadsBackSwapped : State.reset.FbInv ∧ 127 < 128 := ⟨reset_fbInv, by decide⟩

theorem witness_DrawCommandRunsToCompletion :
    (drawing .clear 0).drawJob = some { cmd := .clear, color := 0xFA81#16, k := 0 } ∧
      (drawing (.circle 0 0 (-1)) 0).drawJob = some { cmd := .circle 0 0 (-1), color := 0xFA81#16, k := 0 } := by decide

theorem witness_DrawIndexCountsDrawTurns :
    let job : DrawJob := { cmd := .line 0 0 3 2, color := 0xFA81#16, k := 2 }
    let ts : List Turn := [.draw, .framer, .host (commandWrite 0x01#32), .transport .ok, .draw]
    (drawing (.line 0 0 3 2) 2).drawJob = some job ∧ (∀ u ∈ ts, u.isReset = false) ∧
      job.k + drawTurns ts ≤ job.cmd.points.length ∧
      runTurns ts (drawing (.line 0 0 3 2) 2) = .next (after ts (drawing (.line 0 0 3 2) 2)) :=
  ⟨by decide, by decide, by decide, rfl⟩

theorem witness_DrawCommandEndsUnderEveryInterleaving :
    let job : DrawJob := { cmd := .line 0 0 3 2, color := 0xFA81#16, k := 4 }
    let ts : List Turn := [.framer, .draw]
    (drawing (.line 0 0 3 2) 4).drawJob = some job ∧ (∀ u ∈ ts, u.isReset = false) ∧
      job.cmd.points.length + 1 ≤ job.k + drawTurns ts ∧ job.k ≤ job.cmd.points.length := by decide

/-- A plot of a wrapped point, and a CLEAR that completes and so writes the cursor. -/
theorem witness_DrawTurnChangesOnlyItsOwn :
    let s : State := { drawing .clear 16384 with cursor := 0x8000FFFF#32 }
    State.FbInv (drawing (.plot 128 0) 0) ∧ (DrawCmd.plot 128 0).points[0]? = some ⟨128, 0⟩ ∧
      (∃ t, runTurns [.draw] (drawing (.plot 128 0) 0) = .next t) ∧
      s.FbInv ∧ DrawCmd.clear.points[16384]? = none ∧ ∃ t, runTurns [.draw] s = .next t ∧ t.cursor ≠ s.cursor := by
  have h : DrawCmd.clear.points[16384]? = none :=
    List.getElem?_eq_none (by simp [DrawCmd.points, clearPoints, Config.width, Config.height])
  refine ⟨reset_fbInv, by decide, ⟨_, runTurns_eq _ _⟩, reset_fbInv, h, _, runTurns_eq _ _, ?_⟩
  simp [afterTurn, drawStep, drawing, h, drawComplete]

theorem witness_RectOutlinesItsBorder :
    ((1 : Int) ≤ 1 ∧ (rectPoints 5 7 1 1).length = 4) ∧
      ∀ p ∈ [⟨5, 7⟩, ⟨4, 7⟩, ⟨4, 6⟩, (⟨5, 6⟩ : Point)], p ∈ rectPoints 5 7 0 0 := by decide

theorem witness_FillRectVisitsRowsInOrder : 1 < (2 : Int).toNat ∧ 0 < (1 : Int).toNat := by decide

theorem witness_CircleStepsStayInTheOctant : (-1 : Int) < 0 ∧ (0 : Int) ≤ 0 ∧ (circleSteps 0)[0]? = some ⟨0, 0⟩ := by
  decide

theorem witness_CirclePointsAreSymmetric : (⟨11, 10⟩ : Point) ∈ circlePoints 10 10 1 := by decide

theorem witness_LineKeepsItsLaws :
    (linePoints 0 0 3 2)[2]? = some ⟨2, 1⟩ ∧ (linePoints 0 0 3 2)[3]? = some ⟨3, 2⟩ ∧
      ((3 : Nat) : Int) ≤ max (lineDelta 0 3) (lineDelta 0 2) := by decide

theorem witness_ClearZeroesTheFramebuffer :
    (drawing .clear 0).FbInv ∧ (drawing .clear 0).drawJob = some { cmd := .clear, color := 0xFA81#16, k := 0 } :=
  ⟨reset_fbInv, by decide⟩

theorem witness_FillRectPaintsTheRectangle :
    (drawing (.fillRect 126 127 2 1) 0).FbInv ∧
      (drawing (.fillRect 126 127 2 1) 0).drawJob = some { cmd := .fillRect 126 127 2 1, color := 0xFA81#16, k := 0 } ∧
      (0 : Int) ≤ 126 ∧ (0 : Int) ≤ 127 ∧ (126 : Int) + 2 ≤ 128 ∧ (127 : Int) + 1 ≤ 128 :=
  ⟨reset_fbInv, by decide⟩

/-- The open bus with the DC pin released. -/
def released (s : State) : State := { s with ctrl := { s.ctrl with dcOe := false } }

theorem witness_SendcmdSendsOneFrame :
    let s := framing (.sendcmd 0xAF#8 (List.replicate 16 0#8)) 0 none
    s.framerJob = some { cmd := .sendcmd 0xAF#8 (List.replicate 16 0#8), m := 0, pending := none } ∧
      (List.replicate 16 (0#8 : Byte)).length ≤ 16 ∧ s.busOpen = true ∧ s.ctrl.dcOe = true ∧
      (released s).framerJob = s.framerJob ∧ (released s).busOpen = true ∧ (released s).ctrl.dcOe = false := by decide

/-- D-PIN-11: with the DC pin released a SENDCMD emits no Dc event and its transfers carry d = Z. -/
theorem test_sendcmd_released :
    (after (answeredRounds (List.replicate 5 .ok)) (released (framing (.sendcmd 0xFD#8 [0x12#8]) 0 none))).trace =
      [.xfer .released [0xFD#8], .ans .ok, .xfer .released [0x12#8], .ans .ok] := by decide

theorem witness_ContrastAndVscrollSendTheirFrames :
    let s := framing (.contrast 256) 0 none
    let t := released (framing (.vscroll 0xFF#8) 0 none)
    s.busOpen = true ∧ s.ctrl.dcOe = true ∧ s.framerJob = some { cmd := .contrast 256, m := 0, pending := none } ∧
      t.busOpen = true ∧ t.ctrl.dcOe = false ∧ t.framerJob = some { cmd := .vscroll 0xFF#8, m := 0, pending := none } := by
  decide

theorem witness_BusOpenOpensTheBus :
    let s := framing (.busOpen 0#32) 0 none
    let t : State := { s with busOpen := false }
    s.framerJob = some { cmd := .busOpen 0#32, m := 0, pending := none } ∧ s.busOpen = true ∧
      t.framerJob = some { cmd := .busOpen 0#32, m := 0, pending := none } ∧ t.busOpen = false := by decide

theorem witness_BusCloseClosesTheBus :
    let s := framing .busClose 0 none
    let t : State := { s with busOpen := false }
    s.framerJob = some { cmd := .busClose, m := 0, pending := none } ∧ s.busOpen = true ∧
      t.framerJob = some { cmd := .busClose, m := 0, pending := none } ∧ t.busOpen = false := by decide

theorem witness_RefreshSendsThirteenTransfers :
    let s := framing .refresh 0 none
    let t : State := { released s with dcLevel := false }
    s.framerJob = some { cmd := .refresh, m := 0, pending := none } ∧ s.busOpen = true ∧ s.ctrl.dcOe = true ∧
      s.dcLevel = true ∧ t.framerJob = s.framerJob ∧ t.busOpen = true ∧ t.ctrl.dcOe = false ∧ t.dcLevel = false := by
  decide

/-- The turns of a whole REFRESH: nineteen answered rounds and the DONE step. -/
def refreshTurns : List Turn := answeredRounds (List.replicate 19 .ok) ++ [.framer]

theorem witness_RefreshTransferCountUnderEveryInterleaving :
    let s := framing .refresh 0 none
    s.framerJob = some { cmd := .refresh, m := 0, pending := none } ∧ (∀ u ∈ refreshTurns, u.isReset = false) ∧
      (∀ n, n < refreshTurns.length → (after (refreshTurns.take n) s).framerJob ≠ none) ∧
      runTurns refreshTurns s = .next (after refreshTurns s) ∧ (after refreshTurns s).framerJob = none ∧
      (after refreshTurns s).has .errTransport = false :=
  ⟨by decide, by decide, by decide, rfl, by decide, by decide⟩

theorem witness_FramerAbortIsOneAction :
    let s : State := { framing .refresh 1 none with busOpen := false }
    let t := framing .refresh 1 (some .xfer)
    s.framerJob = some { cmd := .refresh, m := 1, pending := none } ∧
      FramerCmd.refresh.microOps[1]? = some (.xfer (.bytes [0x15#8])) ∧ s.busOpen = false ∧
      t.framerJob = some { cmd := .refresh, m := 1, pending := some .xfer } := by decide

theorem witness_AnswerIsTakenOnlyWhileAwaited :
    State.reset.pending = none ∧
      (framing .refresh 1 (some .xfer)).framerJob = some { cmd := .refresh, m := 1, pending := some .xfer } := by decide

theorem refresh_framerInv : (framing .refresh 18 (some .xfer)).FramerInv := by
  refine ⟨by simp [framing], fun job h => ?_⟩
  obtain rfl := Option.some.inj h
  refine ⟨by decide, fun r hr => ?_⟩
  obtain rfl := Option.some.inj hr
  exact ⟨⟨.xfer (.fbChunk 7), by decide, by decide⟩, by decide⟩

theorem witness_FramerEndsWhenEveryRequestIsAnswered :
    (framing .busClose 0 none).FramerInv ∧
      (framing .busClose 0 none).framerJob = some { cmd := .busClose, m := 0, pending := none } ∧
      FramerCmd.busClose.microOps.length ≤ 0 + [Answer.ok, .fail].length := by
  refine ⟨⟨by simp [framing], fun job h => ?_⟩, by decide, by decide⟩
  obtain rfl := Option.some.inj h
  exact ⟨by decide, fun r hr => by simp at hr⟩

theorem witness_StalledTransportHoldsTheFramer :
    let s := framing .refresh 1 (some .xfer)
    let ts : List Turn := [.framer, .draw, .host (commandWrite 0x20#32)]
    s.framerJob = some { cmd := .refresh, m := 1, pending := some .xfer } ∧
      (∀ u ∈ ts, u.isReset = false ∧ u.isTransport = false) ∧ runTurns ts s = .next (after ts s) :=
  ⟨by decide, by decide, rfl⟩

theorem witness_FramerTurnChangesOnlyItsOwn :
    let s := framing .refresh 1 (some .xfer)
    (∃ t, runTurns [.framer] (framing .refresh 0 none) = .next t) ∧ ∃ t, runTurns [.transport .fail] s = .next t :=
  ⟨⟨_, rfl⟩, ⟨_, rfl⟩⟩

theorem quiet_of_engine {u : Turn} (h : u = .framer ∨ ∃ o, u = .transport o) (s : State) : u.keepsFrameQuiet s := by
  rcases h with rfl | ⟨o, rfl⟩ <;> exact fun _ => ⟨by simp, fun a h => by simp at h⟩

/-- A register access is quiet. -/
theorem quiet_of_command (v : Word) (s : State) : (Turn.host (commandWrite v)).keepsFrameQuiet s := by
  refine fun _ => ⟨by simp, fun a h _ => ?_⟩
  obtain rfl : commandWrite v = a := by simpa using h
  show Reg.offset .cmd < Config.windowBase
  decide

theorem refreshTurns_are_engine : ∀ u ∈ refreshTurns, u = .framer ∨ u = .transport .ok := by decide

/-- A whole quiet REFRESH, with a rejected one issued in the middle. -/
theorem witness_QuietRefreshKeepsTheFrame :
    let s := framing .refresh 0 none
    let ts : List Turn := .framer :: .host (commandWrite 0x20#32) :: refreshTurns.tail
    s.framerJob = some { cmd := .refresh, m := 0, pending := none } ∧
      (∀ n, n < ts.length → (after (ts.take n) s).guard = true) ∧ (∀ u ∈ ts, u.isReset = false) ∧
      (∀ u ∈ ts, ∀ v, u.keepsFrameQuiet v) ∧ runTurns ts s = .next (after ts s) ∧ (after ts s).framerJob = none ∧
      (after ts s).has .errTransport = false := by
  refine ⟨by decide, by decide, by decide, fun u hu v => ?_, rfl, by decide, by decide⟩
  rcases List.mem_cons.mp hu with rfl | hu
  · exact quiet_of_engine (.inl rfl) v
  · rcases List.mem_cons.mp hu with rfl | hu
    · exact quiet_of_command _ v
    · exact quiet_of_engine ((refreshTurns_are_engine u (List.mem_of_mem_tail hu)).imp id fun h => ⟨_, h⟩) v

theorem witness_PlotProgramDrawsItsPoint :
    State.reset.drawJob = none ∧ (-32768 : Int) ≤ -32768 ∧ (-32768 : Int) ≤ 32767 ∧ (32767 : Int) ≤ 32767 := by decide

theorem witness_SendProgramLatchesItsPayload :
    State.reset.framerJob = none ∧ (List.replicate 16 (0xA5#8 : Byte)).length ≤ 16 := by decide

/-- R291: twenty-one rows; row 4 with a payload of 16 bytes, the longest, writes all four PAYLOAD registers and
ARG0 = 0x10B3. -/
theorem test_init_sequence :
    let b : SendPayload := ⟨List.replicate 16 0xA5#8, by decide⟩
    let rows := initSequence ⟨b, b, b, b, b, b, b, b, b, b, b, b⟩ 255
    rows.length = 21 ∧
      rows[3]? = some [writeAccess .payload0 0xA5A5A5A5#32, writeAccess .payload1 0xA5A5A5A5#32,
        writeAccess .payload2 0xA5A5A5A5#32, writeAccess .payload3 0xA5A5A5A5#32, writeAccess .arg0 0x000010B3#32,
        writeAccess .cmd 0x00000021#32] := by decide

theorem witness_StepKeepsFramebufferCanonical :
    State.reset.FbInv ∧ step State.reset = .next (afterStep State.reset) := ⟨reset_fbInv, rfl⟩

theorem witness_StepKeepsGuardExact :
    (framing .refresh 18 (some .xfer)).FramerInv ∧
      step (framing .refresh 18 (some .xfer)) = .next (afterStep (framing .refresh 18 (some .xfer))) :=
  ⟨refresh_framerInv, rfl⟩

/-- A trace with pin events, an open bus and an answered transfer. -/
theorem witness_StepKeepsTraceLegal :
    let s : State := { framing (.sendcmd 0xAF#8 []) 2 none with
      dcLevel := false
      trace := [.rst .low, .dc .high, .rst .high, .openBus 0x012C0000#32, .ans .ok, .dc .low, .xfer .low [0xAF#8], .ans .ok] }
    s.TraceInv ∧ step s = .next (afterStep s) :=
  ⟨by unfold State.TraceInv; decide, rfl⟩

theorem witness_StepKeepsOpcodeTransfersSingle :
    let s := framing .refresh 18 (some .xfer)
    s.FramerInv ∧ s.OpcodeInv ∧ step s = .next (afterStep s) := by
  refine ⟨refresh_framerInv, ⟨fun b hb => by simp [framing, openBus, State.reset] at hb, fun job v h hv => ?_⟩, rfl⟩
  obtain rfl := Option.some.inj h
  revert hv
  revert v
  decide

theorem witness_StepKeepsClockAndIndexBounds :
    let s : State := { drawing (.line 0 0 3 2) 4 with framerJob := some { cmd := .busOpen 0xFFFF0000#32, m := 0, pending := none } }
    s.ClockInv ∧ s.DrawInv ∧ step s = .next (afterStep s) := by
  refine ⟨⟨by decide, fun job clk h hc => ?_⟩, fun job h => ?_, rfl⟩
  · obtain rfl := Option.some.inj h
    obtain rfl : (0xFFFF0000#32 : Word) = clk := by simpa using hc
    decide
  · obtain rfl := Option.some.inj h
    decide

theorem witness_ResetStateHasSpecValues :
    (0x0010, (0x012C0000#32 : Word)) ∈ [(0x0000, (0x10C28080#32 : Word)), (0x0010, 0x012C0000#32)] := by decide

end Sys2Proof.Tests
end

section
/-! PROOFS of the family 10_state: what a host write of STATUS and of CTRL does. -/

namespace Sys2Proof.Machine

section
variable (s : State)

/-! ## A register write through the host port -/

/-- Each register's own 4-byte host write is admitted (R81), and is `afterWriteReg` with the answer recorded. -/
theorem hostAccess_writeAccess (r : Reg) (v : Word) :
    hostAccess (writeAccess r v) s = .next (afterWriteReg r v (s.respond ⟨.okay, 0#32⟩)) := by
  rw [hostAccess_eq]
  simp only [afterAccess, writeAccess, addressMap_offset]

/-! ## The bits of STATUS -/

/-- STATUS[7:0] (R28): four reserved bits, then the bits that show the engines and the bus as they stand. -/
def State.liveStatus : BitVec 8 :=
  0#4 ++ BitVec.ofBool s.busOpen ++ BitVec.ofBool s.guard ++ BitVec.ofBool s.fbusy ++ BitVec.ofBool s.dbusy

/-- R28: STATUS is the live bits below bit 8 and the sticky field from bit 8 on. -/
theorem State.getLsbD_statusWord (i : Nat) :
    s.statusWord.getLsbD i = if i < 8 then s.liveStatus.getLsbD i else s.sticky.getLsbD (i - 8) := by
  unfold State.statusWord State.liveStatus
  -- The widths as sums, so that each concatenation shows its fields; what is left is the place of i among them.
  show BitVec.getLsbD (w := 14 + 10 + 4 + 1 + 1 + 1 + 1) _ i =
    if i < 8 then BitVec.getLsbD (w := 4 + 1 + 1 + 1 + 1) _ i else _
  simp only [BitVec.getLsbD_append]
  grind

/-- R29 bit by bit: an acknowledged STATUS bit is cleared exactly when it is sticky and its bit of v is 1. -/
theorem State.getLsbD_statusWord_acknowledge (v : Word) (i : Nat) :
    (s.acknowledge v).statusWord.getLsbD i =
      (s.statusWord.getLsbD i && !(decide (8 ≤ i ∧ i ≤ 17) && v.getLsbD i)) := by
  have live : (s.acknowledge v).liveStatus = s.liveStatus := rfl
  rw [State.getLsbD_statusWord, State.getLsbD_statusWord, live, State.acknowledge_sticky]
  by_cases low : i < 8
  · simp [low, Nat.not_le.mpr low]
  · obtain ⟨j, rfl⟩ : ∃ j, i = 8 + j := ⟨i - 8, by omega⟩
    by_cases sticky : j < 10
    · have named : 8 + j ≤ 17 := by omega
      simp [sticky, named]
    · simp [BitVec.getLsbD_of_ge s.sticky j (by omega)]

/-! ## The pins after a CTRL write -/

/-- RST after a CTRL write (R27, R43): driven at v[0] while v[1] enables it. -/
theorem State.writeCtrl_rstPin (v : Word) :
    (s.writeCtrl v).rstPin = if v.getLsbD 1 then Pin.ofLevel (v.getLsbD 0) else .released := by
  rw [State.writeCtrl_eq]
  rfl

/-- DC after a CTRL write (R27, R43): driven at the framer's level while v[2] enables it. -/
theorem State.writeCtrl_dcPin (v : Word) :
    (s.writeCtrl v).dcPin = if v.getLsbD 2 then Pin.ofLevel s.dcLevel else .released := by
  rw [State.writeCtrl_eq]
  rfl

end

/-! ## The obligations -/

/-- Settles O13: the write is `State.acknowledge`, which touches the sticky field alone. -/
theorem statusWriteClearsNamedBits : Obligations.StatusWriteClearsNamedBits := by
  intro s v
  let answered := s.respond ⟨.okay, 0#32⟩
  exact ⟨answered.acknowledge v, hostAccess_writeAccess s .status v, answered.getLsbD_statusWord_acknowledge v, rfl⟩

/-- Settles O20: the write is `State.writeCtrl`, whose events (`State.writeCtrl_eq`) compare the pins it leaves with
those before it. -/
theorem ctrlWriteEmitsPinChanges : Obligations.CtrlWriteEmitsPinChanges := by
  intro s v rst dc
  let answered := s.respond ⟨.okay, 0#32⟩
  refine ⟨answered.writeCtrl v, hostAccess_writeAccess s .ctrl v, answered.writeCtrl_rstPin v,
    answered.writeCtrl_dcPin v, ?_⟩
  rw [State.writeCtrl_eq, List.append_assoc]
  rfl

end Sys2Proof.Machine
end

section
/-! PROOFS of the family 20_memory: where the map admits a host access, and what an access to the framebuffer window
reads and writes. -/

namespace Sys2Proof.Machine

/-! ## The map -/

/-- R81, R83, R84: the accesses the map admits, in host offsets. -/
def Access.Admitted (a : Access) : Prop :=
  (0x8000 ≤ a.offset ∧ a.offset + a.size.bytes ≤ 0x10000 ∧ a.offset % a.size.bytes = 0) ∨
    (a.size.bytes = 4 ∧ (a.offset ≤ 0x0027 ∨ (0x0030 ≤ a.offset ∧ a.offset ≤ 0x0043)) ∧ a.offset % 4 = 0)

theorem Size.bytes_le_four (n : Size) : n.bytes ≤ 4 := by cases n <;> decide

/-- R23, R81: the registers stand in two runs of offsets, with a gap from 0x0028 to 0x002F. -/
theorem regAt_isSome_iff (o : Nat) :
    (regAt o).isSome ↔ (o ≤ 0x0027 ∨ (0x0030 ≤ o ∧ o ≤ 0x0043)) ∧ o % 4 = 0 := by
  by_cases low : o < 0x0044
  · exact (by decide : ∀ o < 0x0044,
      (regAt o).isSome ↔ (o ≤ 0x0027 ∨ (0x0030 ≤ o ∧ o ≤ 0x0043)) ∧ o % 4 = 0) o low
  · have unassigned : regAt o = none := by
      unfold regAt
      split
      case h_16 => rfl
      all_goals omega
    simp only [unassigned, Option.isSome_none, Bool.false_eq_true, false_iff]
    omega

theorem addressMap_isSome_iff (a : Access) : (addressMap a.offset a.size).isSome ↔ a.Admitted := by
  unfold addressMap Access.Admitted
  by_cases high : Config.windowBase ≤ a.offset
  · rw [if_pos high, Option.isSome_ite]
    simp only [Config.windowBase, Config.hostSpaceEnd] at high ⊢
    omega
  · rw [if_neg high]
    simp only [Config.windowBase] at high
    cases a.size with
    | four =>
      simp only [Option.isSome_map, regAt_isSome_iff, Size.bytes, true_and]
      omega
    | one | two =>
      simp only [Option.isSome_none, Bool.false_eq_true, false_iff, Size.bytes]
      omega

/-- R81: where the window lies, the map gives the index in FB. -/
theorem addressMap_of_window {a : Nat} {n : Size} (base : 0x8000 ≤ a) (fits : a + n.bytes ≤ 0x10000)
    (aligned : a % n.bytes = 0) : addressMap a n = some (.window (a - 0x8000)) := by
  unfold addressMap
  rw [if_pos base, if_pos ⟨fits, aligned⟩]

/-! ## The answer to an access -/

section
variable (s : State)

/-- R82: a refused access. -/
theorem hostAccess_of_refused {a : Access} (h : addressMap a.offset a.size = none) :
    hostAccess a s = .next { s with response := some ⟨.busError, 0#32⟩ } := by
  rw [hostAccess_eq, afterAccess, h]
  rfl

/-- R24, R93: an admitted read changes nothing but the answer. -/
theorem hostAccess_of_read {a : Access} {t : Target} (h : addressMap a.offset a.size = some t) (dir : a.dir = .read) :
    hostAccess a s = .next { s with response := some ⟨.okay, s.readTarget a.size t⟩ } := by
  rw [hostAccess_eq, afterAccess, h, dir]
  rfl

/-- Issuing a command leaves the answer as the port gave it. -/
theorem IssueEffect.response {s t : State} (effect : IssueEffect s t) : t.response = s.response := by
  cases effect with
  | record | draw | framer => rfl

/-- A register write leaves the answer as the port gave it. -/
theorem afterWriteReg_response (r : Reg) (v : Word) : (afterWriteReg r v s).response = s.response := by
  cases r with
  | ctrl => simp only [afterWriteReg, State.writeCtrl_eq]
  | cmd => exact (afterCommand_effect v s).response
  | params | status | irqEn | clockHz | color565 | colorRgb | cursor | arg0 | arg1 | payload0 | payload1 | payload2
  | payload3 => rfl

/-- R111: an admitted write is answered okay with data 0. -/
theorem afterAccess_response_of_write {a : Access} {t : Target} (h : addressMap a.offset a.size = some t)
    (dir : a.dir = .write) : (afterAccess a s).response = some ⟨.okay, 0#32⟩ := by
  simp only [afterAccess, h, dir]
  cases t with
  | reg r => exact afterWriteReg_response _ r a.wdata
  | window i => rfl

/-! ## A window access -/

variable {a : Nat} {n : Size} (base : 0x8000 ≤ a) (fits : a + n.bytes ≤ 0x10000) (aligned : a % n.bytes = 0)
include base fits aligned

theorem hostAccess_windowRead (d : Word) :
    hostAccess { dir := .read, offset := a, size := n, wdata := d } s =
      .next { s with response := some ⟨.okay, Memory.readLanes s.fb (a - 0x8000) n.bytes⟩ } :=
  hostAccess_of_read s (addressMap_of_window base fits aligned) rfl

theorem hostAccess_windowWrite (v : Word) :
    hostAccess { dir := .write, offset := a, size := n, wdata := v } s =
      .next { s with fb := Memory.writeLanes s.fb (a - 0x8000) n.bytes v, response := some ⟨.okay, 0#32⟩ } := by
  rw [hostAccess_eq]
  simp only [afterAccess, addressMap_of_window base fits aligned]
  rfl

end

/-! ## Byte lanes as numbers, and as pairs of bytes -/

/-- A byte below a word of at most three bytes: the lanes do not overlap, and none is lost at the top. -/
theorem toNat_or_shiftLeft_lane (b : Byte) {w : Word} (h : w.toNat < 2 ^ 24) :
    (b.setWidth 32 ||| w <<< 8).toNat = b.toNat + w.toNat <<< 8 := by
  have kept : (w.toNat <<< 8) % 2 ^ 32 = w.toNat <<< 8 := by
    rw [Nat.shiftLeft_eq]
    omega
  have apart := Nat.shiftLeft_add_eq_or_of_lt b.isLt w.toNat
  simp only [BitVec.toNat_or, BitVec.toNat_shiftLeft, BitVec.toNat_setWidth_of_le (show 8 ≤ 32 by decide), kept]
  rw [Nat.or_comm, ← apart, Nat.add_comm]

theorem Memory.toNat_readLanes_lt (m : Memory) (n : Nat) :
    ∀ i, n ≤ 4 → (m.readLanes i n).toNat < 2 ^ (8 * n) := by
  induction n with
  | zero => intro i _; exact Nat.one_pos
  | succ n ih =>
    intro i hn
    have rest := ih (i + 1) (by omega)
    have fits : 2 ^ (8 * n) ≤ 2 ^ 24 := Nat.pow_le_pow_right (by decide) (by omega)
    have b := (m.read i).isLt
    rw [Memory.readLanes, toNat_or_shiftLeft_lane _ (by omega), Nat.shiftLeft_eq, Nat.mul_add, Nat.pow_add]
    omega

/-- R85: the word read is the sum of its lanes. -/
theorem Memory.toNat_readLanes (m : Memory) (n : Nat) :
    ∀ i, n ≤ 4 → (m.readLanes i n).toNat = ∑ j ∈ Finset.range n, (m.read (i + j)).toNat <<< (8 * j) := by
  induction n with
  | zero => intro i _; rfl
  | succ n ih =>
    intro i hn
    have rest := m.toNat_readLanes_lt n (i + 1) (by omega)
    have fits : 2 ^ (8 * n) ≤ 2 ^ 24 := Nat.pow_le_pow_right (by decide) (by omega)
    rw [Memory.readLanes, toNat_or_shiftLeft_lane _ (by omega), ih (i + 1) (by omega), Finset.sum_range_succ',
      Nat.add_comm, Nat.shiftLeft_eq, Finset.sum_mul]
    congr 1
    refine Finset.sum_congr rfl fun j _ => ?_
    rw [Nat.shiftLeft_eq, Nat.shiftLeft_eq, Nat.mul_assoc, ← Nat.pow_add, Nat.add_right_comm i 1 j, Nat.add_assoc i,
      Nat.mul_add]

theorem Memory.readLanes_one (m : Memory) (i : Nat) : m.readLanes i 1 = (m.read i).setWidth 32 := by
  simp [Memory.readLanes]

/-- R85 for a halfword, bit by bit: the second byte above the first. -/
theorem Memory.readLanes_two (m : Memory) (i : Nat) :
    m.readLanes i 2 = 0#16 ++ (m.read (i + 1) ++ m.read i) := by
  rw [Memory.readLanes, Memory.readLanes_one]
  generalize m.read i = lo, m.read (i + 1) = hi
  ext k hk
  simp
  grind

/-- R86 for a halfword, bit by bit: its low byte first. -/
theorem Memory.writeLanes_two (m : Memory) (i : Nat) (hi lo : Byte) :
    m.writeLanes i 2 (0#16 ++ (hi ++ lo)) = (m.write i lo).write (i + 1) hi := by
  have low : (0#16 ++ (hi ++ lo)).setWidth 8 = lo := by
    ext k hk; simp; grind
  have high : ((0#16 ++ (hi ++ lo)) >>> 8).setWidth 8 = hi := by
    ext k hk; simp; grind
  simp only [Memory.writeLanes, low, high]

/-! ## A pixel of the grid -/

theorem State.plot_fb (s : State) (p : Point) (c : Half) : (s.plot p c).fb = Memory.writePixel s.fb p c := rfl

section
variable {x y : Nat} (hx : x < 128) (hy : y < 128)

theorem Point.index_grid (x y : Nat) : Point.index ⟨x, y⟩ = ((2 * (x + 128 * y) : Nat) : Int) := by
  simp only [Point.index, Config.width]
  omega

include hx hy

/-- R89: plot writes a grid pixel as the window writes its colour with the bytes swapped. -/
theorem Memory.writePixel_grid (m : Memory) (c : Half) :
    m.writePixel ⟨x, y⟩ c =
      m.writeLanes (2 * (x + 128 * y)) 2 (0#16 ++ (c.extractLsb' 0 8 ++ c.extractLsb' 8 8)) := by
  have inside : 0 ≤ Point.index ⟨x, y⟩ ∧ Point.index ⟨x, y⟩ + 1 < (Config.fbBytes : Int) := by
    simp only [Point.index_grid, Config.fbBytes]
    omega
  rw [Memory.writePixel, if_pos inside, Memory.writeLanes_two, Point.index_grid, Int.toNat_natCast]

theorem Memory.read_writePixel_grid {m : Memory} (sorted : m.Sorted) (c : Half) :
    (m.writePixel ⟨x, y⟩ c).read (2 * (x + 128 * y)) = c.extractLsb' 8 8 ∧
      (m.writePixel ⟨x, y⟩ c).read (2 * (x + 128 * y) + 1) = c.extractLsb' 0 8 := by
  have inside : 2 * (x + 128 * y) + 1 < Config.fbBytes := by
    simp only [Config.fbBytes]
    omega
  constructor
  · rw [Memory.read_writePixel sorted _ _ _ (Nat.lt_of_succ_lt inside), Point.index_grid, if_pos rfl]
  · rw [Memory.read_writePixel sorted _ _ _ inside, Point.index_grid, if_neg (by omega), if_pos (by omega)]

end

/-! ## The obligations -/

/-- Settles O14: an access is refused where the map gives no target (`addressMap_isSome_iff`), and otherwise answered
okay. -/
theorem accessIsRefusedExactlyOffTheMap : Obligations.AccessIsRefusedExactlyOffTheMap := by
  intro s a n admitted
  have map : (addressMap a.offset a.size).isSome ↔ admitted := addressMap_isSome_iff a
  refine ⟨fun refused => hostAccess_of_refused s ?_, fun h => ?_⟩
  · simpa using mt map.mp refused
  · obtain ⟨t, ht⟩ := Option.isSome_iff_exists.mp (map.mpr h)
    exact ⟨fun dir => ⟨_, hostAccess_of_read s ht dir⟩,
      fun dir => ⟨_, hostAccess_eq a s, afterAccess_response_of_write s ht dir⟩⟩

/-- Settles O21: the answer is the word of the lanes, whose value is their sum (`Memory.toNat_readLanes`). -/
theorem windowReadReturnsLanes : Obligations.WindowReadReturnsLanes := by
  intro s a n d base fits aligned
  exact ⟨_, hostAccess_windowRead s base fits aligned d, Memory.toNat_readLanes s.fb n.bytes _ n.bytes_le_four⟩

/-- Settles O22: the write is `Memory.writeLanes`, read back by `Memory.read_writeLanes`. -/
theorem windowWriteStoresLanes : Obligations.WindowWriteStoresLanes := by
  intro s a n v ⟨sorted, _⟩ base fits aligned
  exact ⟨_, hostAccess_windowWrite s base fits aligned v, rfl,
    fun k => Memory.read_writeLanes n.bytes s.fb _ v k sorted n.bytes_le_four⟩

/-- Settles O24: the two bytes that the plot left are read back (`Memory.read_writePixel_grid`), and the plot is the
window's own halfword write of the swapped colour (`Memory.writePixel_grid`). -/
theorem plottedPixelReadsBackSwapped : Obligations.PlottedPixelReadsBackSwapped := by
  intro s x y c d ⟨sorted, _⟩ hx hy t a swapped
  have plotted : t.fb = Memory.writePixel s.fb ⟨x, y⟩ c := s.plot_fb ⟨x, y⟩ c
  obtain ⟨byte1, byte2⟩ := Memory.read_writePixel_grid hx hy sorted c
  rw [← plotted] at byte1 byte2
  have place : a = 0x8000 + 2 * (x + 128 * y) := rfl
  have base : 0x8000 ≤ a := by omega
  have index : a - 0x8000 = 2 * (x + 128 * y) := by omega
  have nextIndex : a + 1 - 0x8000 = 2 * (x + 128 * y) + 1 := by rw [Nat.sub_add_comm base, index]
  have fits : a + 2 ≤ 0x10000 := by omega
  have aligned : a % 2 = 0 := by omega
  refine ⟨?_, ?_, ?_, ?_⟩
  · rw [hostAccess_windowRead t (n := .one) base (Nat.le_of_succ_le fits) (Nat.mod_one a), index]
    simp only [Size.bytes, Memory.readLanes_one, byte1]
  · rw [hostAccess_windowRead t (n := .one) (Nat.le_succ_of_le base) fits (Nat.mod_one (a + 1)), nextIndex]
    simp only [Size.bytes, Memory.readLanes_one, byte2]
  · rw [hostAccess_windowRead t (n := .two) base fits aligned, index]
    simp only [Size.bytes, Memory.readLanes_two, byte1, byte2, swapped]
  · rw [hostAccess_windowWrite s (n := .two) base fits aligned, index, plotted, Memory.writePixel_grid hx hy]
    rfl

end Sys2Proof.Machine
end

section
/-! PROOFS of the family 30_encoding: the decoder inverts the encoder, and a CMD write of a word that is no command's
records ERR_BADCMD and nothing else. -/

namespace Sys2Proof

/-! ## The code table -/

/-- R121 read both ways: a code is a command's exactly when it is that command's own code. -/
theorem instrOfCode_eq_some_iff (c : Byte) (i : Instr) : instrOfCode c = some i ↔ c = codeOf i := by
  constructor
  · unfold instrOfCode
    split
    -- A row of the table fixes i by its answer and c by its number; the reserved row answers no command.
    all_goals
      intro row
      cases row
    all_goals exact BitVec.eq_of_toNat_eq ‹c.toNat = _›
  · rintro rfl
    cases i <;> rfl

/-- R122 as its list of ranges. -/
theorem reservedCode_iff (c : Byte) :
    reservedCode c = true ↔ c.toNat = 0x00 ∨ (0x08 ≤ c.toNat ∧ c.toNat ≤ 0x1F) ∨ 0x26 ≤ c.toNat := by
  simp [reservedCode, or_assoc]

/-! ## The command word -/

/-- R112: the command word of i is RSVD = 0 above the code of i. -/
theorem eq_encode_iff (w : Word) (i : Instr) :
    w = encode i ↔ w.extractLsb' 8 24 = 0#24 ∧ w.extractLsb' 0 8 = codeOf i := by
  constructor
  · rintro rfl
    exact ⟨BitVec.extractLsb'_append_eq_left, BitVec.extractLsb'_append_eq_right⟩
  · rintro ⟨rsvd, code⟩
    calc
      w = w.extractLsb' 8 24 ++ w.extractLsb' 0 8 :=
        (BitVec.extractLsb'_append_extractLsb' (w := 24) (len := 8)).symm
      _ = encode i := by rw [rsvd, code, encode]

/-- R114: the decoder accepts a word by its two fields. -/
theorem decode_eq_ok_iff_fields (w : Word) (i : Instr) :
    decode w = .ok i ↔ w.extractLsb' 8 24 = 0#24 ∧ instrOfCode (w.extractLsb' 0 8) = some i := by
  unfold decode
  split
  case isTrue rsvd =>
    cases instrOfCode (w.extractLsb' 0 8) with
    | none => simp
    | some j => simp [rsvd]
  case isFalse rsvd => simp [rsvd]

/-- R123: the decoder inverts the encoder. -/
theorem decode_eq_ok_iff (w : Word) (i : Instr) : decode w = .ok i ↔ w = encode i := by
  rw [decode_eq_ok_iff_fields, instrOfCode_eq_some_iff, eq_encode_iff]

/-- The command word of every command is well formed (`Laws.EncodingForm`, command by command). -/
theorem encodingForm (i : Instr) : Laws.EncodingForm.Statement i := by
  cases i with
  | plot => exact Laws.EncodingForm.plot
  | line => exact Laws.EncodingForm.line
  | rect => exact Laws.EncodingForm.rect
  | fillRect => exact Laws.EncodingForm.fillRect
  | circle => exact Laws.EncodingForm.circle
  | fillCircle => exact Laws.EncodingForm.fillCircle
  | clear => exact Laws.EncodingForm.clear
  | refresh => exact Laws.EncodingForm.refresh
  | sendcmd => exact Laws.EncodingForm.sendcmd
  | contrast => exact Laws.EncodingForm.contrast
  | vscroll => exact Laws.EncodingForm.vscroll
  | busOpen => exact Laws.EncodingForm.busOpen
  | busClose => exact Laws.EncodingForm.busClose

/-- R112, R122: the decoder rejects a word with nonzero RSVD or a reserved code, since no command's word has either. -/
theorem decode_rejects {w : Word} (h : w.extractLsb' 8 24 ≠ 0#24 ∨ reservedCode (w.extractLsb' 0 8) = true) :
    ∃ e, decode w = .error e := by
  cases decoded : decode w with
  | error e => exact ⟨e, rfl⟩
  | ok i =>
    obtain rfl := (decode_eq_ok_iff w i).mp decoded
    obtain ⟨-, rsvd, code⟩ := encodingForm i
    simp [rsvd, code] at h

end Sys2Proof

namespace Sys2Proof.Machine

/-- R114: a CMD write of a word the decoder rejects records ERR_BADCMD and does nothing else. -/
theorem hostAccess_commandWrite_of_rejected (s : State) {w : Word} {e : DecodeReject} (h : decode w = .error e) :
    hostAccess (commandWrite w) s = .next ((s.respond ⟨.okay, 0#32⟩).raise .errBadCmd) := by
  have written : hostAccess (commandWrite w) s = .next (afterCommand w (s.respond ⟨.okay, 0#32⟩)) :=
    hostAccess_writeAccess s .cmd w
  simp only [written, afterCommand, h]

/-! ## The obligations -/

/-- Settles O1: the decoder inverts the encoder (`decode_eq_ok_iff`), and the thirteen words are closed computations. -/
theorem decodeInvertsEncode : Obligations.DecodeInvertsEncode :=
  ⟨decode_eq_ok_iff, by decide⟩

/-- Settles O5: such a word is rejected (`decode_rejects`), and a rejected word only raises ERR_BADCMD
(`hostAccess_commandWrite_of_rejected`). -/
theorem reservedWordRecordsBadCommand : Obligations.ReservedWordRecordsBadCommand := by
  intro s w code reserved
  obtain ⟨e, rejected⟩ := decode_rejects (reserved.imp_right (reservedCode_iff _).mpr)
  exact hostAccess_commandWrite_of_rejected s rejected

end Sys2Proof.Machine
end

section
/-! PROOFS of the family 40_color: the colour conversion by its fields, and the COLOR_RGB write. -/

namespace Sys2Proof.Machine

/-! ## The conversion by its fields -/

/-- A mask of n ones above m zeros keeps the top field. -/
theorem and_allOnes_append_zero {n m : Nat} (x : BitVec (n + m)) :
    x &&& (BitVec.allOnes n ++ 0#m) = x.extractLsb' m n ++ 0#m := by
  calc
    x &&& (BitVec.allOnes n ++ 0#m) =
        (x.extractLsb' m n ++ x.extractLsb' 0 m) &&& (BitVec.allOnes n ++ 0#m) := by
      rw [BitVec.extractLsb'_append_extractLsb']
    _ = x.extractLsb' m n ++ 0#m := by rw [BitVec.and_append, BitVec.and_allOnes, BitVec.and_zero]

/-- A field with zeros below it, or-ed with a field with zeros above it. -/
theorem append_zero_or_zero_append {n m : Nat} (x : BitVec n) (y : BitVec m) :
    (x ++ 0#m) ||| (0#n ++ y) = x ++ y := by
  rw [BitVec.or_append, BitVec.or_zero, BitVec.zero_or]

/-- R140: byte1 is red's top five bits above green's top three. -/
theorem colorByte1_eq_append (r g : Byte) : colorByte1 r g = r.extractLsb' 3 5 ++ g.extractLsb' 5 3 := by
  have red : r &&& 0xF8#8 = r.extractLsb' 3 5 ++ 0#3 := and_allOnes_append_zero (n := 5) (m := 3) r
  have green : g >>> 5 = 0#5 ++ g.extractLsb' 5 3 := BitVec.ushiftRight_eq_extractLsb'_of_lt (by decide)
  rw [colorByte1, red, green]
  exact append_zero_or_zero_append _ _

/-- R140: byte2 is green's bits 4:2 above blue's top five; the shift brings green's mask to the top of the byte. -/
theorem colorByte2_eq_append (g b : Byte) : colorByte2 g b = g.extractLsb' 2 3 ++ b.extractLsb' 3 5 := by
  have field : (g <<< 3).extractLsb' 5 3 = g.extractLsb' 2 3 := by
    ext i hi
    have inByte : 5 + i < 8 := by omega
    have shifted : ¬ 5 + i < 3 := by omega
    have source : 5 + i - 3 = 2 + i := by omega
    simp only [BitVec.getElem_extractLsb', BitVec.getLsbD_shiftLeft, inByte, shifted, source, decide_true,
      decide_false, Bool.not_false, Bool.true_and]
  have green : (g &&& 0x1C#8) <<< 3 = g.extractLsb' 2 3 ++ 0#5 := by
    rw [BitVec.shiftLeft_and_distrib, ← field]
    exact and_allOnes_append_zero (n := 3) (m := 5) (g <<< 3)
  have blue : b >>> 3 = 0#3 ++ b.extractLsb' 3 5 := BitVec.ushiftRight_eq_extractLsb'_of_lt (by decide)
  rw [colorByte2, green, blue]
  exact append_zero_or_zero_append _ _

/-- R141: the two bytes side by side are the 5-6-5 concatenation, green's two fields meeting in the middle. -/
theorem colorBytes_eq_append (r g b : Byte) :
    colorByte1 r g ++ colorByte2 g b = r.extractLsb' 3 5 ++ g.extractLsb' 2 6 ++ b.extractLsb' 3 5 := by
  have green : g.extractLsb' 5 3 ++ g.extractLsb' 2 3 = g.extractLsb' 2 6 :=
    BitVec.extractLsb'_append_extractLsb'_eq_extractLsb' rfl
  rw [colorByte1_eq_append, colorByte2_eq_append]
  calc
    (r.extractLsb' 3 5 ++ g.extractLsb' 5 3) ++ (g.extractLsb' 2 3 ++ b.extractLsb' 3 5) =
        ((r.extractLsb' 3 5 ++ g.extractLsb' 5 3) ++ g.extractLsb' 2 3) ++ b.extractLsb' 3 5 := BitVec.append_assoc'
    _ = (r.extractLsb' 3 5 ++ (g.extractLsb' 5 3 ++ g.extractLsb' 2 3)) ++ b.extractLsb' 3 5 :=
      congrArg (· ++ b.extractLsb' 3 5) BitVec.append_assoc
    _ = r.extractLsb' 3 5 ++ g.extractLsb' 2 6 ++ b.extractLsb' 3 5 := by rw [green]

/-! ## The obligation -/

/-- Settles O18: the write is `toPanelColor` of the word, which is the concatenation by `colorBytes_eq_append`. -/
theorem colorWriteConverts : Obligations.ColorWriteConverts := by
  intro s v r g b c
  have converted : colorByte1 r g ++ colorByte2 g b = c := colorBytes_eq_append r g b
  refine ⟨?_, converted.symm⟩
  rw [← converted]
  exact hostAccess_writeAccess s .colorRgb v

end Sys2Proof.Machine
end

section
/-! PROOFS of the family 41_draw: what plot leaves in the framebuffer and in STATUS, and the laws of a line. -/

namespace Sys2Proof.Machine

/-! ## plot -/

theorem Point.onGrid_iff (p : Point) : p.onGrid = true ↔ 0 ≤ p.x ∧ p.x < 128 ∧ 0 ≤ p.y ∧ p.y < 128 := by
  simp [Point.onGrid, Config.width, Config.height, and_assoc]

/-- R151: a point whose index is outside FB writes nothing. -/
theorem Memory.writePixel_of_outside (m : Memory) {p : Point} (outside : p.index < 0 ∨ 32768 ≤ p.index) (c : Half) :
    m.writePixel p c = m := by
  refine if_neg fun ⟨low, high⟩ => ?_
  simp only [Config.fbBytes] at high
  omega

/-- Settles O23: byte by byte `Memory.read_writePixel`, the frame by `State.plot_eq`, and outside FB
`Memory.writePixel_of_outside`. -/
theorem plotWritesThePixelItsIndexNames : Obligations.PlotWritesThePixelItsIndexNames := by
  intro s p c ⟨sorted, _⟩ i
  refine ⟨Memory.read_writePixel sorted p c, ?_, fun outside => Memory.writePixel_of_outside s.fb outside c⟩
  simp only [s.plot_eq, p.onGrid_iff]
  rfl

/-! ## The line loop as an iteration -/

/-- The point a loop state emits (R154). -/
def LineState.point (t : LineState) : Point := ⟨t.x, t.y⟩

/-- R154: the loop emits the iterates of its step up to the first one at the end point, if the fuel lasts. -/
theorem lineLoop_eq_iterate {dx dy sx sy : Int} {last : Point} (n : Nat) :
    ∀ (fuel : Nat) (t : LineState), n < fuel → ((lineStep dx dy sx sy)^[n] t).point = last →
      (∀ i < n, ((lineStep dx dy sx sy)^[i] t).point ≠ last) →
      lineLoop dx dy sx sy last.x last.y fuel t =
        (List.iterate (lineStep dx dy sx sy) t (n + 1)).map LineState.point := by
  induction n with
  | zero =>
    rintro (_ | fuel) t enough rfl -
    · omega
    · simp [lineLoop, LineState.point]
  | succ n ih =>
    rintro (_ | fuel) t enough reached before
    · omega
    · have notYet : ¬ (t.x = last.x ∧ t.y = last.y) := fun ⟨hx, hy⟩ =>
        before 0 n.succ_pos (congrArg₂ Point.mk hx hy)
      have rest := ih fuel (lineStep dx dy sx sy t) (by omega) reached fun i hi => before (i + 1) (by omega)
      rw [lineLoop, if_neg notYet, rest]
      rfl

/-! ## The course of a line

A line is traced with its longer side along x or along y. The second case is the mirror image of the first: swapping
the coordinates negates the error. -/

/-- The course of a line of n steps that starts in t: it reaches the end point, its points are pairwise distinct, and
the doubled error stays within 2n (R157). -/
structure LineCourse (step : LineState → LineState) (t : LineState) (last : Point) (n : Nat) : Prop where
  reaches : (step^[n] t).point = last
  distinct : ∀ i ≤ n, ∀ j ≤ n, (step^[i] t).point = (step^[j] t).point → i = j
  error_le : ∀ i ≤ n, |(step^[i] t).e| ≤ 2 * n

/-- The mirror image in the diagonal x = y. -/
def Point.swap (p : Point) : Point := ⟨p.y, p.x⟩

/-- The mirror image of a loop state. -/
def LineState.swap (t : LineState) : LineState := ⟨t.y, t.x, -t.e⟩

theorem LineState.point_swap (t : LineState) : t.swap.point = t.point.swap := rfl

theorem Point.swap_injective : Function.Injective Point.swap :=
  Function.LeftInverse.injective (g := Point.swap) fun _ => rfl

/-- The loop of the mirror image is the mirror image of the loop. -/
theorem lineStep_swap (dx dy sx sy : Int) :
    Function.Semiconj LineState.swap (lineStep dx dy sx sy) (lineStep dy dx sy sx) := by
  intro t
  have alongX : (-t.e < 2 * dx) = (t.e > -(2 * dx)) := by rw [neg_lt, gt_iff_lt]
  have alongY : (-t.e > -(2 * dy)) = (t.e < 2 * dy) := by rw [gt_iff_lt, neg_lt_neg_iff]
  simp only [lineStep, LineState.swap, alongX, alongY, LineState.mk.injEq, true_and]
  ring

theorem LineCourse.swap {dx dy sx sy : Int} {t : LineState} {last : Point} {n : Nat}
    (h : LineCourse (lineStep dx dy sx sy) t last n) :
    LineCourse (lineStep dy dx sy sx) t.swap last.swap n := by
  have iterates : ∀ i, (lineStep dy dx sy sx)^[i] t.swap = ((lineStep dx dy sx sy)^[i] t).swap := fun i =>
    ((lineStep_swap dx dy sx sy).iterate_right i t).symm
  constructor
  · rw [iterates, LineState.point_swap, h.reaches]
  · intro i hi j hj same
    simp only [iterates, LineState.point_swap] at same
    exact h.distinct i hi j hj (Point.swap_injective same)
  · intro i hi
    rw [iterates, LineState.swap, abs_neg]
    exact h.error_le i hi

/-! ## The longer side along x -/

/-- Every step moves x, and the error e stays between 0 and 2dx; b counts the steps that moved y. -/
theorem iterate_lineStep_alongX {dx dy : Int} (nonneg : 0 ≤ dy) (le : dy ≤ dx) (x0 y0 sx sy : Int) (i : Nat) :
    i ≤ dx → ∃ b e : Int, (lineStep dx dy sx sy)^[i] ⟨x0, y0, dx⟩ = ⟨x0 + i * sx, y0 + b * sy, e⟩ ∧
      e = dx - 2 * dy * i + 2 * dx * b ∧ 0 ≤ e ∧ e ≤ 2 * dx := by
  induction i with
  | zero =>
    intro _
    exact ⟨0, dx, by simp, by simp, by omega, by omega⟩
  | succ i ih =>
    intro hi
    rw [Nat.cast_succ] at hi ⊢
    obtain ⟨b, e, state, error, low, high⟩ := ih (by omega)
    rw [Function.iterate_succ_apply', state]
    have movesX : e > -(2 * dx) := by omega
    simp only [lineStep, if_pos movesX]
    by_cases movesY : e < 2 * dy
    · simp only [if_pos movesY]
      exact ⟨b + 1, _, by congr 1 <;> ring, by rw [error]; ring, by omega, by omega⟩
    · simp only [if_neg movesY]
      exact ⟨b, _, by congr 1; ring, by rw [error]; ring, by omega, by omega⟩

/-- R157 for a line of n steps along x that starts with the error n. At its last step the error is an odd multiple of
n between 0 and 2n, so y has moved dy times. -/
theorem lineCourse_alongX {dx dy sx : Int} {n : Nat} (length : n = dx) (nonneg : 0 ≤ dy) (le : dy ≤ dx)
    (directed : sx = 0 → dx = 0) (x0 y0 sy : Int) :
    LineCourse (lineStep dx dy sx sy) ⟨x0, y0, dx⟩ ⟨x0 + dx * sx, y0 + dy * sy⟩ n := by
  subst length
  have course := iterate_lineStep_alongX nonneg le x0 y0 sx sy
  have atX : ∀ i ≤ n, ((lineStep n dy sx sy)^[i] ⟨x0, y0, n⟩).point.x = x0 + i * sx := fun i hi => by
    obtain ⟨b, e, state, -⟩ := course i (Int.ofNat_le.mpr hi)
    rw [state, LineState.point]
  constructor
  · obtain rfl | positive := n.eq_zero_or_pos
    · obtain rfl : dy = 0 := le_antisymm le nonneg
      simp [LineState.point]
    · replace positive : (0 : Int) < n := Int.natCast_pos.mpr positive
      obtain ⟨b, e, state, error, low, high⟩ := course n le_rfl
      have odd : e = n * (1 - 2 * dy + 2 * b) := by rw [error]; ring
      rw [odd] at low high
      have lower : 0 ≤ 1 - 2 * dy + 2 * b := nonneg_of_mul_nonneg_right low positive
      have upper : 1 - 2 * dy + 2 * b ≤ 2 := le_of_mul_le_mul_left (mul_comm 2 (n : Int) ▸ high) positive
      have movedY : b = dy := by omega
      rw [state, LineState.point, movedY]
  · intro i hi j hj same
    have sameX : (i : Int) * sx = j * sx := by
      have := congrArg Point.x same
      rw [atX i hi, atX j hj] at this
      exact add_left_cancel this
    by_cases still : n = 0
    · omega
    · exact Int.ofNat_inj.mp (mul_right_cancel₀ (fun h => still (Int.ofNat_eq_zero.mp (directed h))) sameX)
  · intro i hi
    obtain ⟨b, e, state, -, low, high⟩ := course i (Int.ofNat_le.mpr hi)
    rw [state]
    exact abs_le.mpr ⟨(neg_nonpos.mpr (low.trans high)).trans low, high⟩

/-! ## The laws -/

theorem add_lineDelta_mul_sign (a0 a1 : Int) : a0 + lineDelta a0 a1 * (a1 - a0).sign = a1 := by
  rw [lineDelta, mul_comm, Int.sign_mul_natAbs, add_sub_cancel]

theorem lineDelta_eq_zero_of_sign {a0 a1 : Int} (h : (a1 - a0).sign = 0) : lineDelta a0 a1 = 0 := by
  rw [lineDelta, Int.sign_eq_zero_iff_zero.mp h]
  rfl

/-- The number of steps of a line: its longer side. -/
def lineLength (x0 y0 x1 y1 : Int) : Nat := max (x1 - x0).natAbs (y1 - y0).natAbs

theorem lineLength_eq_max (x0 y0 x1 y1 : Int) :
    (lineLength x0 y0 x1 y1 : Int) = max (lineDelta x0 x1) (lineDelta y0 y1) := Nat.cast_max ..

/-- R157: every line keeps its course, along x if it is wider than high and otherwise along y. -/
theorem lineCourse (x0 y0 x1 y1 : Int) :
    LineCourse (lineStep (lineDelta x0 x1) (lineDelta y0 y1) (x1 - x0).sign (y1 - y0).sign)
      (lineStart x0 y0 x1 y1) ⟨x1, y1⟩ (lineLength x0 y0 x1 y1) := by
  have nonneg : ∀ a0 a1, 0 ≤ lineDelta a0 a1 := fun _ _ => Int.natCast_nonneg _
  have length := lineLength_eq_max x0 y0 x1 y1
  by_cases wide : lineDelta x0 x1 > lineDelta y0 y1
  · have course := lineCourse_alongX (length.trans (max_eq_left wide.le)) (nonneg ..) wide.le
      lineDelta_eq_zero_of_sign x0 y0 (y1 - y0).sign
    rw [add_lineDelta_mul_sign, add_lineDelta_mul_sign] at course
    rwa [lineStart, if_pos wide]
  · have high : lineDelta x0 x1 ≤ lineDelta y0 y1 := not_lt.mp wide
    have course := lineCourse_alongX (length.trans (max_eq_right high)) (nonneg ..) high
      lineDelta_eq_zero_of_sign y0 x0 (x1 - x0).sign
    rw [add_lineDelta_mul_sign, add_lineDelta_mul_sign] at course
    rw [lineStart, if_neg wide]
    exact course.swap

/-- R154, R157: the points of a line are those of the first max(dx, dy) + 1 loop states; the fuel outlasts them. -/
theorem linePoints_eq_iterate (x0 y0 x1 y1 : Int) :
    linePoints x0 y0 x1 y1 =
      (List.iterate (lineStep (lineDelta x0 x1) (lineDelta y0 y1) (x1 - x0).sign (y1 - y0).sign)
        (lineStart x0 y0 x1 y1) (lineLength x0 y0 x1 y1 + 1)).map LineState.point := by
  obtain ⟨reaches, distinct, -⟩ := lineCourse x0 y0 x1 y1
  refine lineLoop_eq_iterate (last := ⟨x1, y1⟩) _ _ _ (by unfold lineLength; omega) reaches fun i hi atEnd => ?_
  exact hi.ne (distinct i hi.le _ le_rfl (atEnd.trans reaches.symm))

/-- R157: one step moves each coordinate by nothing or by one in its direction. -/
theorem lineStep_moves (dx dy sx sy : Int) (t : LineState) :
    ((lineStep dx dy sx sy t).x = t.x ∨ (lineStep dx dy sx sy t).x = t.x + sx) ∧
      ((lineStep dx dy sx sy t).y = t.y ∨ (lineStep dx dy sx sy t).y = t.y + sy) := by
  unfold lineStep
  constructor
  · exact (ite_eq_or_eq _ _ _).symm
  · exact (ite_eq_or_eq _ _ _).symm

/-- Settles O29: the points are those of the loop's iterates (`linePoints_eq_iterate`), whose course is `lineCourse`. -/
theorem lineKeepsItsLaws : Obligations.LineKeepsItsLaws := by
  intro x0 y0 x1 y1 dx dy sx sy P
  obtain ⟨reaches, distinct, error_le⟩ := lineCourse x0 y0 x1 y1
  have max_eq : max dx dy = lineLength x0 y0 x1 y1 := (lineLength_eq_max ..).symm
  have points : P = _ := linePoints_eq_iterate x0 y0 x1 y1
  generalize lineLength x0 y0 x1 y1 = n at *
  have length : P.length = n + 1 := by rw [points, List.length_map, List.length_iterate]
  have point : ∀ i ≤ n, P[i]? = some ((lineStep dx dy sx sy)^[i] (lineStart x0 y0 x1 y1)).point := fun i hi => by
    rw [points, List.getElem?_map, List.getElem?_iterate _ _ _ _ (by omega)]
    rfl
  rw [max_eq]
  refine ⟨by rw [length]; rfl, ?_, ?_, ?_, ?_⟩
  · rw [List.head?_eq_getElem?, point 0 n.zero_le]
    rfl
  · rw [List.getLast?_eq_getElem?, length, Nat.add_sub_cancel, point n le_rfl]
    exact congrArg some reaches
  · intro i p q atP atQ
    have inside : i + 1 ≤ n := by
      have := (List.getElem?_eq_some_iff.mp atQ).1
      omega
    rw [point i (by omega)] at atP
    rw [point (i + 1) inside] at atQ
    obtain rfl := Option.some.inj atP
    obtain rfl := Option.some.inj atQ
    refine ⟨fun same => absurd (distinct i (by omega) _ inside same) (by omega), ?_⟩
    rw [Function.iterate_succ_apply']
    exact lineStep_moves dx dy sx sy _
  · intro i hi t
    exact ⟨point i (Int.ofNat_le.mp hi), abs_le.mp (error_le i (Int.ofNat_le.mp hi))⟩

end Sys2Proof.Machine
end

section
/-! PROOFS of the family 42_framer: the command that a busy engine drops, and the framer's abort. -/

namespace Sys2Proof.Machine

section
variable {s : State}

/-! ## Commands issued to a busy engine -/

/-- R116: a busy draw engine drops every command with ERR_OVERRUN. -/
theorem acceptDraw_of_busy (busy : s.drawJob ≠ none) (cmd : DrawCmd) : acceptDraw cmd s = s.raise .errOverrun := by
  rcases acceptDraw_cases cmd s with ⟨_, _, dropped⟩ | ⟨idle, _⟩
  · exact dropped
  · exact absurd idle busy

/-- R116, R215: a busy framer drops every command with that command's condition. -/
theorem acceptFramer_of_busy (busy : s.framerJob ≠ none) (cmd : FramerCmd) :
    acceptFramer cmd s = s.raise cmd.dropCondition := by
  rcases acceptFramer_cases cmd s with ⟨_, _, dropped⟩ | ⟨idle, _⟩
  · exact dropped
  · exact absurd idle busy

/-- R121: the seven draw commands go to the draw engine, with no check before its busy check. -/
theorem afterExec_draw (s : State) {i : Instr}
    (isDraw : i ∈ [Instr.plot, .line, .rect, .fillRect, .circle, .fillCircle, .clear]) :
    ∃ cmd, afterExec i s = acceptDraw cmd s := by
  simp only [List.mem_cons, List.not_mem_nil, or_false] at isDraw
  rcases isDraw with rfl | rfl | rfl | rfl | rfl | rfl | rfl <;> exact ⟨_, rfl⟩

/-- R118: a SENDCMD whose length passes the check goes to the framer. -/
theorem afterExec_sendcmd (fits : s.payloadLength ≤ Config.payloadMax) :
    afterExec .sendcmd s = acceptFramer s.sendcmdOperands s :=
  if_neg (Nat.not_lt.mpr fits)

/-! ## The abort -/

/-- R209: of STATUS, the abort sets ERR_TRANSPORT and FRAMER_DONE, bits 12 and 9. -/
theorem framerAbort_eq_bits (s : State) :
    framerAbort s = { s with framerJob := none, guard := false, sticky := s.sticky ||| 0x012#10 } := by
  rw [framerAbort_eq, BitVec.or_assoc]
  rfl

/-- R206: with nothing outstanding, a framer turn is the micro-operation m. -/
theorem framerStep_of_ready {job : FramerJob} {op : MicroOp} (running : s.framerJob = some job)
    (ready : job.pending = none) (current : job.cmd.microOps[job.m]? = some op) : framerStep s = microStep job op s := by
  simp only [framerStep, running, ready, current]

/-- R205: a transfer on a closed bus is the abort and nothing else. -/
theorem microStep_xfer_of_closed (closed : s.busOpen = false) (job : FramerJob) (src : ByteSource) :
    microStep job (.xfer src) s = framerAbort s := by
  simp [microStep, closed]

/-- R209: a fail answer to an outstanding request is recorded and aborts. -/
theorem transportStep_fail {job : FramerJob} (running : s.framerJob = some job) (waits : job.pending ≠ none) :
    transportStep .fail s = framerAbort (s.emit (.ans .fail)) := by
  rcases transportStep_cases .fail s with ⟨idle, _⟩ | ⟨_, _, _, _, answered⟩
  · exact absurd (by simpa [State.pending, running] using idle) waits
  · exact answered

end

/-! ## The obligations -/

/-- Settles O9: each command reaches its engine's acceptance (`afterExec_draw`, `afterExec_sendcmd`), which a busy engine
answers with a condition (`acceptDraw_of_busy`, `acceptFramer_of_busy`). -/
theorem busyEngineDropsTheCommand : Obligations.BusyEngineDropsTheCommand := by
  intro s
  refine ⟨fun busy i isDraw => ?_, fun busy => ⟨?refresh, fun fits => ?sendcmd, fun i other => ?other⟩⟩
  · obtain ⟨cmd, issued⟩ := afterExec_draw s isDraw
    rw [exec_eq, issued, acceptDraw_of_busy busy]
    rfl
  case refresh => exact congrArg _ (acceptFramer_of_busy busy .refresh)
  case sendcmd =>
    rw [exec_eq, afterExec_sendcmd fits, acceptFramer_of_busy busy]
    rfl
  case other =>
    simp only [List.mem_cons, List.not_mem_nil, or_false] at other
    rcases other with rfl | rfl | rfl | rfl <;> exact congrArg _ (acceptFramer_of_busy busy _)

/-- Settles O44: either turn is one `framerAbort` (`microStep_xfer_of_closed`, `transportStep_fail`), the second after the
answer is recorded. -/
theorem framerAbortIsOneAction : Obligations.FramerAbortIsOneAction := by
  intro s job running
  refine ⟨fun src ready current closed => ?_, fun waits => ?_⟩
  · have aborted : framerStep s = framerAbort s :=
      (framerStep_of_ready running ready current).trans (microStep_xfer_of_closed closed job src)
    rw [runTurns_eq, ← framerAbort_eq_bits]
    exact congrArg _ aborted
  · rw [runTurns_eq]
    exact congrArg _ ((transportStep_fail running waits).trans (framerAbort_eq_bits _))

end Sys2Proof.Machine
end

section
/-! PROOFS of the family 60_exceptions: the interrupt output beside STATUS and IRQ_EN as they read. -/

namespace Sys2Proof.Machine

section
variable (s : State)

/-- R28: STATUS reads condition j at bit j + 8. -/
theorem State.getLsbD_readReg_status_add_eight (j : Nat) :
    (s.readReg .status).getLsbD (j + 8) = s.sticky.getLsbD j := by
  show s.statusWord.getLsbD (j + 8) = _
  simp [State.getLsbD_statusWord]

/-- R30: IRQ_EN reads the enable of condition j at bit j + 8. -/
theorem State.getLsbD_readReg_irqEn_add_eight (j : Nat) :
    (s.readReg .irqEn).getLsbD (j + 8) = s.irqEn.getLsbD j := by
  -- The width as a sum, so that the concatenation shows its fields.
  show BitVec.getLsbD (w := 14 + 10 + 8) (0#14 ++ s.irqEn ++ 0#8) (j + 8) = _
  have inField : s.irqEn.getLsbD j = true → j < 10 := BitVec.lt_of_getLsbD
  simp only [BitVec.getLsbD_append, BitVec.getLsbD_zero]
  simpa using inField

/-- R255: irq is 1 exactly when some condition is recorded and enabled. -/
theorem State.irq_iff : s.irq = true ↔ ∃ j, s.sticky.getLsbD j = true ∧ s.irqEn.getLsbD j = true := by
  have nonzero : s.irq = true ↔ ¬ ∀ j, (s.sticky &&& s.irqEn).getLsbD j = false := by
    rw [State.irq, bne_iff_ne, ne_eq, not_iff_not]
    exact ⟨fun zero j => by rw [zero, BitVec.getLsbD_zero],
      fun clear => BitVec.eq_of_getLsbD_eq fun j _ => by rw [clear j, BitVec.getLsbD_zero]⟩
  simp only [nonzero, not_forall, Bool.not_eq_false, BitVec.getLsbD_and, Bool.and_eq_true]

end

/-- Settles O16: condition j of `State.irq_iff` reads as bit i = j + 8 of both words, and its field ends at j = 9. -/
theorem interruptLineIsALevel : Obligations.InterruptLineIsALevel := by
  intro s
  rw [State.irq_iff]
  constructor
  · rintro ⟨j, recorded, enabled⟩
    have inField : j < 10 := BitVec.lt_of_getLsbD recorded
    exact ⟨j + 8, by omega, by omega, (s.getLsbD_readReg_status_add_eight j).trans recorded,
      (s.getLsbD_readReg_irqEn_add_eight j).trans enabled⟩
  · rintro ⟨i, sticky, -, recorded, enabled⟩
    obtain ⟨j, rfl⟩ := Nat.exists_eq_add_of_le' sticky
    rw [State.getLsbD_readReg_status_add_eight] at recorded
    rw [State.getLsbD_readReg_irqEn_add_eight] at enabled
    exact ⟨j, recorded, enabled⟩

end Sys2Proof.Machine
end

section
/-! PROOFS of the family other: the invariants of every step, what an agent's turn and a command leave alone, whole runs
of the two engines, the point lists, the registers, and the reset. -/

namespace Sys2Proof.Machine

/-! ## All that an agent's turn can do

`HostEffect` of Laws/Effects.lean says it of the host's turn; here are the framer with the Transport, and the draw
engine. -/

section
variable {s t : State}

/-! ### Commands -/

/-- Issuing a command touches the two engines, the guard and the sticky bits, and nothing else. -/
theorem IssueEffect.frame (effect : IssueEffect s t) :
    t = { s with drawJob := t.drawJob, framerJob := t.framerJob, guard := t.guard, sticky := t.sticky } := by
  cases effect with
  | record | draw | framer => rfl

/-- A set of bits, or-ed to a value, keeps the bits of the value. -/
theorem or_and_self {w : Nat} (x b : BitVec w) : (x ||| b) &&& x = x := by
  ext i
  simp +contextual

theorem IssueEffect.sticky_kept (effect : IssueEffect s t) : t.sticky &&& s.sticky = s.sticky := by
  cases effect with
  | record b => exact or_and_self ..
  | draw => exact BitVec.and_self
  | framer => exact or_and_self ..

/-- A running draw command stays as it is, whatever is issued. -/
theorem IssueEffect.drawJob_of_busy (effect : IssueEffect s t) (busy : s.drawJob ≠ none) : t.drawJob = s.drawJob := by
  cases effect with
  | record | framer => rfl
  | draw _ idle => exact absurd idle busy

/-- A running framer command stays as it is, whatever is issued. -/
theorem IssueEffect.framerJob_of_busy (effect : IssueEffect s t) (busy : s.framerJob ≠ none) :
    t.framerJob = s.framerJob := by
  cases effect with
  | record | draw => rfl
  | framer _ _ idle => exact absurd idle busy

/-! ### The framer's turn and the answer -/

/-- The command at its next micro-operation, with nothing outstanding (R206). -/
def FramerJob.next (job : FramerJob) : FramerJob := { job with m := job.m + 1, pending := none }

/-- The command as it waits for the answer to a request (R203). -/
def FramerJob.await (job : FramerJob) (r : Request) : FramerJob := { job with pending := some r }

/-- The command can take its micro-operation m, which is op. -/
structure Ready (s : State) (job : FramerJob) (op : MicroOp) : Prop where
  running : s.framerJob = some job
  idle : job.pending = none
  current : job.cmd.microOps[job.m]? = some op

/-- All that a framer turn or an answer can do (R204 to R210). -/
inductive FramerEffect (s : State) : State → Prop
  | still : FramerEffect s s
  | dc (job : FramerJob) (v : Bool) (ready : Ready s job (.dc v)) :
      FramerEffect s
        { s with
          framerJob := some job.next
          dcLevel := v
          trace := s.trace ++ pinEvents { s with dcLevel := v } s }
  | skipOpen (job : FramerJob) (clk : Word) (ready : Ready s job (.openBus clk)) (isOpen : s.busOpen = true) :
      FramerEffect s { s with framerJob := some job.next }
  | skipClose (job : FramerJob) (ready : Ready s job .closeBus) (closed : s.busOpen = false) :
      FramerEffect s { s with framerJob := some job.next }
  | xfer (job : FramerJob) (src : ByteSource) (ready : Ready s job (.xfer src)) (isOpen : s.busOpen = true) :
      FramerEffect s
        { s with framerJob := some (job.await .xfer), trace := s.trace ++ [.xfer s.dcPin (src.resolve s.fb)] }
  | openBus (job : FramerJob) (clk : Word) (ready : Ready s job (.openBus clk)) (closed : s.busOpen = false) :
      FramerEffect s { s with framerJob := some (job.await .openBus), trace := s.trace ++ [.openBus clk] }
  | closeBus (job : FramerJob) (ready : Ready s job .closeBus) (isOpen : s.busOpen = true) :
      FramerEffect s
        { s with framerJob := some (job.await .closeBus), busOpen := false, trace := s.trace ++ [.closeBus] }
  | done (job : FramerJob) (ready : Ready s job .done) : FramerEffect s (framerComplete job.cmd s)
  | refused (job : FramerJob) (src : ByteSource) (ready : Ready s job (.xfer src)) (closed : s.busOpen = false) :
      FramerEffect s (framerAbort s)
  | answered (job : FramerJob) (r : Request) (running : s.framerJob = some job) (waits : job.pending = some r) :
      FramerEffect s
        { s with
          framerJob := some job.next
          busOpen := if r = .openBus then true else s.busOpen
          trace := s.trace ++ [.ans .ok] }
  | failed (job : FramerJob) (r : Request) (running : s.framerJob = some job) (waits : job.pending = some r) :
      FramerEffect s (framerAbort (s.emit (.ans .fail)))

theorem microStep_dc (job : FramerJob) (v : Bool) (s : State) :
    microStep job (.dc v) s =
      { s with
        framerJob := some job.next
        dcLevel := v
        trace := s.trace ++ pinEvents { s with dcLevel := v } s } := by
  simp only [microStep, framerAdvance, State.setDcLevel_eq]
  rfl

theorem microStep_xfer_of_open (isOpen : s.busOpen = true) (job : FramerJob) (src : ByteSource) :
    microStep job (.xfer src) s =
      { s with framerJob := some (job.await .xfer), trace := s.trace ++ [.xfer s.dcPin (src.resolve s.fb)] } :=
  if_pos isOpen

theorem microStep_openBus_of_open (isOpen : s.busOpen = true) (job : FramerJob) (clk : Word) :
    microStep job (.openBus clk) s = { s with framerJob := some job.next } :=
  if_pos isOpen

theorem microStep_openBus_of_closed (closed : s.busOpen = false) (job : FramerJob) (clk : Word) :
    microStep job (.openBus clk) s =
      { s with framerJob := some (job.await .openBus), trace := s.trace ++ [.openBus clk] } :=
  if_neg (ne_true_of_eq_false closed)

theorem microStep_closeBus_of_open (isOpen : s.busOpen = true) (job : FramerJob) :
    microStep job .closeBus s =
      { s with framerJob := some (job.await .closeBus), busOpen := false, trace := s.trace ++ [.closeBus] } :=
  if_pos isOpen

theorem microStep_closeBus_of_closed (closed : s.busOpen = false) (job : FramerJob) :
    microStep job .closeBus s = { s with framerJob := some job.next } :=
  if_neg (ne_true_of_eq_false closed)

theorem microStep_effect {job : FramerJob} {op : MicroOp} (ready : Ready s job op) :
    FramerEffect s (microStep job op s) := by
  cases op with
  | dc v => exact microStep_dc job v s ▸ .dc job v ready
  | xfer src =>
    cases bus : s.busOpen with
    | true => exact microStep_xfer_of_open bus job src ▸ .xfer job src ready bus
    | false => exact microStep_xfer_of_closed bus job src ▸ .refused job src ready bus
  | openBus clk =>
    cases bus : s.busOpen with
    | true => exact microStep_openBus_of_open bus job clk ▸ .skipOpen job clk ready bus
    | false => exact microStep_openBus_of_closed bus job clk ▸ .openBus job clk ready bus
  | closeBus =>
    cases bus : s.busOpen with
    | true => exact microStep_closeBus_of_open bus job ▸ .closeBus job ready bus
    | false => exact microStep_closeBus_of_closed bus job ▸ .skipClose job ready bus
  | done => exact .done job ready

theorem framerStep_effect (s : State) : FramerEffect s (framerStep s) := by
  rcases framerStep_cases s with still | ⟨job, op, running, idle, current, taken⟩
  · exact still.symm ▸ .still
  · exact taken ▸ microStep_effect ⟨running, idle, current⟩

theorem transportStep_effect (o : Answer) (s : State) : FramerEffect s (transportStep o s) := by
  rcases transportStep_cases o s with ⟨-, still⟩ | ⟨job, r, running, waits, taken⟩
  · exact still.symm ▸ .still
  · cases o with
    | ok => exact taken ▸ .answered job r running waits
    | fail => exact taken ▸ .failed job r running waits

/-- What a framer turn and an answer leave alone, and how STATUS and the trace move (R222). -/
structure FramerFrame (s t : State) : Prop where
  rest : t = { s with
    framerJob := t.framerJob
    guard := t.guard
    busOpen := t.busOpen
    dcLevel := t.dcLevel
    sticky := t.sticky
    trace := t.trace }
  sticky_bits : t.sticky ||| 0x016#10 = s.sticky ||| 0x016#10
  sticky_kept : t.sticky &&& s.sticky = s.sticky
  trace_grows : ∃ more, t.trace = s.trace ++ more

/-- or-ing bits of a mask changes nothing above the mask. -/
theorem or_or_of_subset {w : Nat} (x : BitVec w) {b mask : BitVec w} (inside : b ||| mask = mask) :
    (x ||| b) ||| mask = x ||| mask := by
  rw [BitVec.or_assoc, inside]

theorem framerAbort_frame (s : State) : FramerFrame s (framerAbort s) where
  rest := rfl
  sticky_bits := by
    rw [framerAbort_eq_bits]
    exact or_or_of_subset s.sticky (by decide)
  sticky_kept := by
    rw [framerAbort_eq_bits]
    exact or_and_self ..
  trace_grows := ⟨[], (List.append_nil _).symm⟩

/-- R210: of STATUS, DONE sets FRAMER_DONE, and REFRESH_OK with it for a REFRESH. -/
theorem framerComplete_eq_bits (cmd : FramerCmd) (s : State) :
    framerComplete cmd s = { s with
      framerJob := none
      guard := if cmd = .refresh then false else s.guard
      sticky := s.sticky ||| if cmd = .refresh then 0x006#10 else 0x002#10 } := by
  rw [framerComplete_eq, BitVec.or_assoc]
  split <;> rfl

theorem framerComplete_frame (cmd : FramerCmd) (s : State) : FramerFrame s (framerComplete cmd s) := by
  rw [framerComplete_eq_bits]
  exact {
    rest := rfl
    sticky_bits := or_or_of_subset s.sticky (by split <;> decide)
    sticky_kept := or_and_self ..
    trace_grows := ⟨[], (List.append_nil _).symm⟩ }

theorem FramerEffect.frame (effect : FramerEffect s t) : FramerFrame s t := by
  cases effect with
  | still | skipOpen | skipClose => exact ⟨rfl, rfl, BitVec.and_self, [], (List.append_nil _).symm⟩
  | dc | xfer | openBus | closeBus | answered => exact ⟨rfl, rfl, BitVec.and_self, _, rfl⟩
  | done job => exact framerComplete_frame job.cmd s
  | refused => exact framerAbort_frame s
  | failed =>
    obtain ⟨rest, bits, kept, -⟩ := framerAbort_frame (s.emit (.ans .fail))
    exact ⟨rest, bits, kept, _, rfl⟩

/-! ### The draw engine's turn -/

/-- What a draw turn leaves alone (R169). -/
theorem drawStep_frame (s : State) :
    drawStep s = { s with
      fb := (drawStep s).fb
      sticky := (drawStep s).sticky
      drawJob := (drawStep s).drawJob
      cursor := (drawStep s).cursor } := by
  rcases drawStep_cases s with ⟨-, taken⟩ | ⟨job, p, -, -, taken⟩ | ⟨job, -, -, taken⟩
  · rw [taken]
  · rw [taken, State.plot_eq]
  · rw [taken, drawComplete_eq]

/-- Of STATUS, a draw turn can only set COORD_RANGE and DRAW_DONE. -/
theorem drawStep_sticky (s : State) : ∃ b, b ||| 0x081#10 = 0x081#10 ∧ (drawStep s).sticky = s.sticky ||| b := by
  have still : s.sticky = s.sticky ||| 0#10 := BitVec.or_zero.symm
  rcases drawStep_cases s with ⟨-, taken⟩ | ⟨job, p, -, -, taken⟩ | ⟨job, -, -, taken⟩
  · exact ⟨0#10, by decide, by rw [taken, ← still]⟩
  · rw [taken, State.plot_eq]
    by_cases onGrid : p.onGrid = true
    · exact ⟨0#10, by decide, by simp only [onGrid, if_true, ← still]⟩
    · exact ⟨Condition.coordRange.mask, by decide, by simp only [onGrid]; rfl⟩
  · exact ⟨Condition.drawDone.mask, by decide, by rw [taken, drawComplete_eq]⟩

end

/-! ## Invariants of every step -/

/-- An invariant that looks at neither the agenda nor the last answer is kept by every step if each agent's effects and
the reset keep it. -/
theorem step_keeps_of_effects {Inv : State → Prop}
    (environment : ∀ s ts r, Inv s → Inv { s with agenda := ts, response := r })
    (host : ∀ {a s t}, HostEffect a s t → Inv s → Inv t) (draw : ∀ {s}, Inv s → Inv (drawStep s))
    (framer : ∀ {s t}, FramerEffect s t → Inv s → Inv t) (reset : ∀ s fill, Inv s → Inv (s.blockReset fill))
    {s t : State} (holds : Inv s) (stepped : step s = .next t) : Inv t := by
  refine step_keeps (fun s ts => environment s ts s.response) (fun s u holds => ?_) holds stepped
  cases u with
  | host a =>
    obtain ⟨r, effect⟩ := afterAccess_effect a s
    exact host effect (environment s s.agenda r holds)
  | draw => exact draw holds
  | framer => exact framer (framerStep_effect s) holds
  | transport o => exact framer (transportStep_effect o s) holds
  | reset fill => exact reset s fill holds

/-! ### The framebuffer -/

theorem HostEffect.fbInv {a : Access} {s t : State} (effect : HostEffect a s t) (inv : s.FbInv) : t.FbInv := by
  cases effect with
  | window i _ _ inside => exact Memory.writeLanes_wf _ s.fb i a.wdata inv inside
  | issue _ issued =>
    rw [issued.frame]
    exact inv
  | idle | ctrl | acknowledge | clock | operand => exact inv

theorem drawStep_fbInv {s : State} (inv : s.FbInv) : (drawStep s).FbInv := by
  rcases drawStep_cases s with ⟨-, taken⟩ | ⟨job, p, -, -, taken⟩ | ⟨job, -, -, taken⟩
  · rwa [taken]
  · rw [taken]
    exact Memory.writePixel_wf inv p _
  · rw [taken, drawComplete_eq]
    exact inv

theorem FramerEffect.fbInv {s t : State} (effect : FramerEffect s t) (inv : s.FbInv) : t.FbInv := by
  rw [effect.frame.rest]
  exact inv

/-- Settles O52: each agent's writes keep the canonical form (`Memory.writeLanes_wf`, `Memory.writePixel_wf`), and a
reset brings it (`Memory.ofCells_wf`). -/
theorem stepKeepsFramebufferCanonical : Obligations.StepKeepsFramebufferCanonical := fun _ _ =>
  step_keeps_of_effects (Inv := State.FbInv) (fun _ _ _ inv => inv) HostEffect.fbInv drawStep_fbInv FramerEffect.fbInv
    fun _ fill _ => Memory.ofCells_wf fill

/-! ### The framer -/

/-- R211, R213, R218 to R221: every micro-operation list ends with DONE. -/
theorem FramerCmd.microOps_eq_append_done (cmd : FramerCmd) : ∃ ops, cmd.microOps = ops ++ [.done] := by
  cases cmd with
  | refresh | sendcmd | contrast | vscroll => exact ⟨_, rfl⟩
  | busOpen clk => exact ⟨[.openBus clk], rfl⟩
  | busClose => exact ⟨[.closeBus], rfl⟩

theorem FramerCmd.microOps_length_pos (cmd : FramerCmd) : 0 < cmd.microOps.length := by
  obtain ⟨ops, list⟩ := cmd.microOps_eq_append_done
  simp [list]

/-- After a micro-operation other than DONE there is another. -/
theorem FramerCmd.succ_lt_of_ne_done {cmd : FramerCmd} {m : Nat} {op : MicroOp} (current : cmd.microOps[m]? = some op)
    (notDone : op ≠ .done) : m + 1 < cmd.microOps.length := by
  obtain ⟨ops, list⟩ := cmd.microOps_eq_append_done
  rw [list] at current ⊢
  have inside : m < (ops ++ [MicroOp.done]).length := (List.getElem?_eq_some_iff.mp current).1
  rw [List.length_append, List.length_singleton] at inside ⊢
  by_contra last
  obtain rfl : m = ops.length := by omega
  exact notDone (by simpa using current.symm)

/-- What FramerInv says of a running command. -/
structure FramerJob.Consistent (job : FramerJob) (busOpen : Bool) : Prop where
  inside : job.m < job.cmd.microOps.length
  request : ∀ r, job.pending = some r →
    (∃ op, job.cmd.microOps[job.m]? = some op ∧ op.request = some r) ∧ (busOpen = true ↔ r = .xfer)

section
variable {s t : State}

theorem State.framerInv_of_running {job : FramerJob} (running : s.framerJob = some job) :
    s.FramerInv ↔ (s.guard = true ↔ job.cmd = .refresh) ∧ job.Consistent s.busOpen := by
  simp only [State.FramerInv, running, Option.some.injEq, exists_eq_left', forall_eq']
  exact and_congr_right fun _ => ⟨fun ⟨inside, request⟩ => ⟨inside, request⟩, fun h => ⟨h.inside, h.request⟩⟩

theorem State.framerInv_of_idle (idle : s.framerJob = none) : s.FramerInv ↔ s.guard = false := by
  simp [State.FramerInv, idle]

/-- The next micro-operation, with nothing outstanding, on any bus. -/
theorem FramerJob.consistent_next {job : FramerJob} {op : MicroOp} (current : job.cmd.microOps[job.m]? = some op)
    (notDone : op ≠ .done) (bus : Bool) : job.next.Consistent bus where
  inside := FramerCmd.succ_lt_of_ne_done current notDone
  request r waits := by cases waits

/-- The wait for the request that micro-operation m issues. -/
theorem FramerJob.consistent_await {job : FramerJob} {op : MicroOp} {r : Request}
    (current : job.cmd.microOps[job.m]? = some op) (issues : op.request = some r) {bus : Bool}
    (port : bus = true ↔ r = .xfer) : (job.await r).Consistent bus where
  inside := (List.getElem?_eq_some_iff.mp current).1
  request _ waits := by
    obtain rfl := Option.some.inj waits
    exact ⟨⟨op, current, issues⟩, port⟩

/-- A running command goes on: the guard stays, and the new job has the same command. -/
theorem State.FramerInv.goesOn {job new : FramerJob} (inv : s.FramerInv) (running : s.framerJob = some job)
    (sameCmd : new.cmd = job.cmd) (runs : t.framerJob = some new) (guard : t.guard = s.guard)
    (consistent : new.Consistent t.busOpen) : t.FramerInv := by
  rw [State.framerInv_of_running runs, sameCmd, guard]
  exact ⟨((State.framerInv_of_running running).mp inv).1, consistent⟩

theorem IssueEffect.framerInv (effect : IssueEffect s t) (inv : s.FramerInv) : t.FramerInv := by
  cases effect with
  | record | draw => exact inv
  | framer cmd b idle =>
    have clear := (State.framerInv_of_idle idle).mp inv
    refine (State.framerInv_of_running rfl).mpr ⟨?_, cmd.microOps_length_pos, fun _ waits => by cases waits⟩
    simp [clear]

theorem HostEffect.framerInv {a : Access} (effect : HostEffect a s t) (inv : s.FramerInv) : t.FramerInv := by
  cases effect with
  | issue _ issued => exact issued.framerInv inv
  | idle | window | ctrl | acknowledge | clock | operand => exact inv

theorem drawStep_framerInv (inv : s.FramerInv) : (drawStep s).FramerInv := by
  rw [drawStep_frame]
  exact inv

theorem framerAbort_framerInv (s : State) : (framerAbort s).FramerInv := (State.framerInv_of_idle rfl).mpr rfl

theorem FramerEffect.framerInv (effect : FramerEffect s t) (inv : s.FramerInv) : t.FramerInv := by
  cases effect with
  | still => exact inv
  | dc job _ ready | skipOpen job _ ready | skipClose job ready =>
    exact inv.goesOn ready.running (new := job.next) rfl rfl rfl (job.consistent_next ready.current (by simp) _)
  | xfer job src ready isOpen =>
    exact inv.goesOn ready.running (new := job.await .xfer) rfl rfl rfl
      (job.consistent_await ready.current rfl (by simp [isOpen]))
  | openBus job clk ready closed =>
    exact inv.goesOn ready.running (new := job.await .openBus) rfl rfl rfl
      (job.consistent_await ready.current rfl (by simp [closed]))
  | closeBus job ready =>
    exact inv.goesOn ready.running (new := job.await .closeBus) rfl rfl rfl
      (job.consistent_await ready.current rfl (by simp))
  | done job ready =>
    have guardExact := ((State.framerInv_of_running ready.running).mp inv).1
    rw [framerComplete_eq, State.framerInv_of_idle rfl]
    by_cases isRefresh : job.cmd = .refresh
    · simp [isRefresh]
    · simpa [isRefresh] using guardExact
  | refused => exact framerAbort_framerInv s
  | answered job r running waits =>
    obtain ⟨-, consistent⟩ := (State.framerInv_of_running running).mp inv
    obtain ⟨⟨op, current, issues⟩, -⟩ := consistent.request r waits
    have notDone : op ≠ .done := by
      rintro rfl
      cases issues
    exact inv.goesOn running (new := job.next) rfl rfl rfl (job.consistent_next current notDone _)
  | failed => exact framerAbort_framerInv _

end

theorem State.blockReset_framerInv (s : State) (fill : List Host.Cell) : (s.blockReset fill).FramerInv :=
  (State.framerInv_of_idle rfl).mpr rfl

/-- Settles O53: `FramerInv` speaks of the running command alone (`State.framerInv_of_running`), which a framer turn or
an answer advances, lets wait or ends (`FramerEffect.framerInv`) and the other agents leave or start. -/
theorem stepKeepsGuardExact : Obligations.StepKeepsGuardExact := fun _ _ =>
  step_keeps_of_effects (Inv := State.FramerInv) (fun _ _ _ inv => inv) HostEffect.framerInv drawStep_framerInv
    FramerEffect.framerInv fun s fill _ => s.blockReset_framerInv fill

/-! ### The output trace -/

/-- The ports as the block holds them. -/
def State.ports (s : State) : PortState :=
  { rst := s.rstPin, dc := s.dcPin, awaiting := s.pending, bus := s.busOpen }

section
variable {s t : State}

/-- Events that an observer reads as the change of the ports keep the trace legal. -/
theorem State.TraceInv.extend (inv : s.TraceInv) {events : List Event} (trace : t.trace = s.trace ++ events)
    (observed : events.foldlM PortState.observe s.ports = some t.ports) : t.TraceInv := by
  have before : s.trace.foldlM PortState.observe PortState.reset = some s.ports := inv
  unfold State.TraceInv observeTrace
  rw [trace, List.foldlM_append, before]
  exact observed

/-- No event, and no change of the ports. -/
theorem State.TraceInv.still (inv : s.TraceInv) (trace : t.trace = s.trace) (ports : t.ports = s.ports) : t.TraceInv :=
  inv.extend (events := []) (by rw [trace, List.append_nil]) (by rw [ports]; rfl)

/-- An observer reads the pin events of an action as the new pins (R202). -/
theorem observe_pinEvents (s t : State) :
    (pinEvents t s).foldlM PortState.observe s.ports = some { s.ports with rst := t.rstPin, dc := t.dcPin } := by
  unfold pinEvents
  by_cases rst : t.rstPin = s.rstPin <;> by_cases dc : t.dcPin = s.dcPin <;>
    simp [rst, dc, PortState.observe, State.ports]

theorem IssueEffect.ports (effect : IssueEffect s t) : t.ports = s.ports := by
  cases effect with
  | record | draw => rfl
  | framer _ _ idle => simp [State.ports, State.pending, idle, State.rstPin, State.dcPin]

theorem HostEffect.traceInv {a : Access} (effect : HostEffect a s t) (inv : s.TraceInv) : t.TraceInv := by
  cases effect with
  | ctrl c => exact inv.extend rfl (observe_pinEvents s _)
  | issue _ issued => exact inv.still (by rw [issued.frame]) issued.ports
  | idle | window | acknowledge | clock | operand => exact inv

theorem drawStep_traceInv (inv : s.TraceInv) : (drawStep s).TraceInv := by
  rw [drawStep_frame]
  exact inv

/-- R207: a chunk is neither empty nor longer than CHUNK_MAX. -/
theorem length_of_mem_payloadChunks {p q : List Byte} (chunk : q ∈ payloadChunks p) :
    1 ≤ q.length ∧ q.length ≤ Config.chunkMax := by
  obtain ⟨j, inside, rfl⟩ := List.mem_map.mp chunk
  rw [List.mem_range] at inside
  simp only [Config.chunkMax, List.length_take, List.length_drop] at inside ⊢
  omega

/-- A transfer carries 1 to CHUNK_MAX bytes. -/
def MicroOp.Sized (fb : Memory) (op : MicroOp) : Prop :=
  ∀ src, op = .xfer src → 1 ≤ (src.resolve fb).length ∧ (src.resolve fb).length ≤ Config.chunkMax

theorem sized_frameOpcode (fb : Memory) (op : Byte) : ∀ u ∈ frameOpcode op, u.Sized fb := by
  simp [frameOpcode, MicroOp.Sized, ByteSource.resolve]

theorem sized_frameBytes (fb : Memory) (op : Byte) (p : List Byte) : ∀ u ∈ frameBytes op p, u.Sized fb := by
  intro u member
  rcases List.mem_append.mp member with opcode | isChunk
  · exact sized_frameOpcode fb op u opcode
  · obtain ⟨q, chunk, rfl⟩ := List.mem_map.mp isChunk
    rintro src ⟨⟩
    exact length_of_mem_payloadChunks chunk

theorem sized_frameBuffer (fb : Memory) (op : Byte) : ∀ u ∈ frameBuffer op, u.Sized fb := by
  intro u member
  rcases List.mem_append.mp member with opcode | isChunk
  · exact sized_frameOpcode fb op u opcode
  · obtain ⟨j, -, rfl⟩ := List.mem_map.mp isChunk
    rintro src ⟨⟩
    simp [ByteSource.resolve, Memory.length_readBlock]

/-- R201: every transfer of every command carries 1 to CHUNK_MAX bytes. -/
theorem FramerCmd.sized (cmd : FramerCmd) (fb : Memory) : ∀ u ∈ cmd.microOps, u.Sized fb := by
  have sizedDone : MicroOp.done.Sized fb := by simp [MicroOp.Sized]
  cases cmd with
  | refresh =>
    simp only [FramerCmd.microOps, List.forall_mem_append, List.forall_mem_singleton]
    exact ⟨⟨⟨sized_frameBytes fb _ _, sized_frameBytes fb _ _⟩, sized_frameBuffer fb _⟩, sizedDone⟩
  | sendcmd | contrast | vscroll =>
    simp only [FramerCmd.microOps, List.forall_mem_append, List.forall_mem_singleton]
    exact ⟨sized_frameBytes fb _ _, sizedDone⟩
  | busOpen | busClose => simp [FramerCmd.microOps, MicroOp.Sized]

/-- While a command runs, the ports await what it waits for. -/
theorem State.ports_of_running {job : FramerJob} (running : s.framerJob = some job) :
    s.ports = { rst := s.rstPin, dc := s.dcPin, awaiting := job.pending, bus := s.busOpen } := by
  simp [State.ports, State.pending, running]

theorem Ready.ports {job : FramerJob} {op : MicroOp} (ready : Ready s job op) :
    s.ports = { rst := s.rstPin, dc := s.dcPin, awaiting := none, bus := s.busOpen } := by
  rw [State.ports_of_running ready.running, ready.idle]

theorem FramerEffect.traceInv (effect : FramerEffect s t) (inv : s.TraceInv) : t.TraceInv := by
  cases effect with
  | still => exact inv
  | dc job v ready =>
    refine inv.extend rfl ((observe_pinEvents s _).trans ?_)
    rw [ready.ports]
    rfl
  | skipOpen job _ ready | skipClose job ready | refused job _ ready => exact inv.still rfl ready.ports.symm
  | xfer job src ready isOpen =>
    obtain ⟨low, high⟩ := job.cmd.sized s.fb _ (List.mem_of_getElem? ready.current) src rfl
    refine inv.extend rfl ?_
    rw [ready.ports, isOpen]
    simp [PortState.observe, low, high, State.ports, State.pending, FramerJob.await, State.rstPin, State.dcPin]
  | openBus job clk ready closed =>
    refine inv.extend rfl ?_
    rw [ready.ports, closed]
    rfl
  | closeBus job ready isOpen =>
    refine inv.extend rfl ?_
    rw [ready.ports, isOpen]
    rfl
  | done job ready =>
    rw [framerComplete_eq]
    exact inv.still rfl ready.ports.symm
  | answered job r running waits =>
    refine inv.extend rfl ?_
    rw [State.ports_of_running running, waits]
    simp [PortState.observe, State.ports, State.pending, FramerJob.next, State.rstPin, State.dcPin]
  | failed job r running waits =>
    refine inv.extend (events := [.ans .fail]) rfl ?_
    rw [State.ports_of_running running, waits]
    simp only [List.foldlM, PortState.observe, reduceCtorEq, and_false, if_false]
    rfl

/-- An observer reads a Reset event as the ports after reset (R282). -/
theorem State.TraceInv.blockReset (inv : s.TraceInv) (fill : List Host.Cell) : (s.blockReset fill).TraceInv :=
  inv.extend (events := [.reset]) rfl rfl

end

/-- Settles O54: an observer reads the events of each agent's turn as the change that the turn makes to the ports
(`State.TraceInv.extend`). -/
theorem stepKeepsTraceLegal : Obligations.StepKeepsTraceLegal := fun _ _ =>
  step_keeps_of_effects (Inv := State.TraceInv) (fun _ _ _ inv => inv) HostEffect.traceInv drawStep_traceInv
    FramerEffect.traceInv fun _ fill inv => inv.blockReset fill

/-! ### Opcode transfers -/

/-- The level after a micro-operation, which only a DC one sets. -/
def MicroOp.levelAfter (v : Option Bool) (op : MicroOp) : Option Bool :=
  match op with
  | .dc l => some l
  | .xfer _ | .openBus _ | .closeBus | .done => v

theorem lastDcLevel_append_singleton (ops : List MicroOp) (op : MicroOp) :
    lastDcLevel (ops ++ [op]) = op.levelAfter (lastDcLevel ops) := by
  unfold lastDcLevel
  rw [List.foldl_append]
  cases op <;> rfl

/-- Along a list of micro-operations that starts at the level v, each transfer either is one opcode byte or is sent with
the level high. -/
def OpcodesLow (v : Option Bool) (ops : List MicroOp) : Prop :=
  match ops with
  | [] => True
  | op :: ops => (∀ src, op = .xfer src → v = some true ∨ ∃ b, src = .bytes [b]) ∧ OpcodesLow (op.levelAfter v) ops

theorem OpcodesLow.append {a b : List MicroOp} : ∀ {v : Option Bool}, OpcodesLow v a →
    OpcodesLow (a.foldl MicroOp.levelAfter v) b → OpcodesLow v (a ++ b) := by
  induction a with
  | nil => exact fun _ rest => rest
  | cons op a ih => exact fun ⟨first, rest⟩ after => ⟨first, ih rest after⟩

/-- Transfers alone leave the level. -/
theorem foldl_levelAfter_xfers (srcs : List ByteSource) (v : Option Bool) :
    (srcs.map MicroOp.xfer).foldl MicroOp.levelAfter v = v := by
  induction srcs with
  | nil => rfl
  | cons src srcs ih => exact ih

theorem opcodesLow_xfers (srcs : List ByteSource) : OpcodesLow (some true) (srcs.map MicroOp.xfer) := by
  induction srcs with
  | nil => exact trivial
  | cons src srcs ih => exact ⟨fun _ _ => .inl rfl, ih⟩

/-- R207: the first half of a frame sends its opcode and leaves the level high. -/
theorem opcodesLow_frame (v : Option Bool) (op : Byte) (srcs : List ByteSource) :
    OpcodesLow v (frameOpcode op ++ srcs.map MicroOp.xfer) ∧
      (frameOpcode op ++ srcs.map MicroOp.xfer).foldl MicroOp.levelAfter v = some true := by
  constructor
  · refine OpcodesLow.append ?_ (opcodesLow_xfers srcs)
    simp [frameOpcode, OpcodesLow]
  · rw [List.foldl_append]
    exact foldl_levelAfter_xfers srcs _

theorem opcodesLow_frameBytes (v : Option Bool) (op : Byte) (p : List Byte) :
    OpcodesLow v (frameBytes op p) ∧ (frameBytes op p).foldl MicroOp.levelAfter v = some true := by
  simpa [frameBytes, Function.comp_def] using opcodesLow_frame v op ((payloadChunks p).map .bytes)

theorem opcodesLow_frameBuffer (v : Option Bool) (op : Byte) : OpcodesLow v (frameBuffer op) := by
  simpa [frameBuffer, Function.comp_def] using
    (opcodesLow_frame v op ((List.range (Config.fbBytes / Config.chunkMax)).map .fbChunk)).1

theorem opcodesLow_done (v : Option Bool) : OpcodesLow v [.done] := ⟨by simp, trivial⟩

/-- R124: every command sends only opcodes, of one byte, before its level is high. -/
theorem FramerCmd.opcodesLow (cmd : FramerCmd) : OpcodesLow none cmd.microOps := by
  cases cmd with
  | refresh =>
    refine ((OpcodesLow.append ?_ ?_).append ?_).append (opcodesLow_done _)
    · exact (opcodesLow_frameBytes ..).1
    · exact (opcodesLow_frameBytes ..).1
    · exact opcodesLow_frameBuffer ..
  | sendcmd | contrast | vscroll => exact (opcodesLow_frameBytes ..).1.append (opcodesLow_done _)
  | busOpen | busClose => simp [FramerCmd.microOps, OpcodesLow]

theorem OpcodesLow.at_index {ops : List MicroOp} : ∀ {v : Option Bool} {m : Nat} {src : ByteSource}, OpcodesLow v ops →
    ops[m]? = some (.xfer src) →
      (ops.take m).foldl MicroOp.levelAfter v = some true ∨ ∃ b, src = .bytes [b] := by
  induction ops with
  | nil => simp
  | cons op ops ih =>
    intro v m src ⟨first, rest⟩ current
    cases m with
    | zero => exact first src (Option.some.inj current)
    | succ m => exact ih rest current

theorem lastDcLevel_eq_foldl (ops : List MicroOp) : lastDcLevel ops = ops.foldl MicroOp.levelAfter none := by
  induction ops using List.reverseRecOn with
  | nil => rfl
  | append_singleton ops op ih => rw [lastDcLevel_append_singleton, ih, List.foldl_append]; rfl

section
variable {s t : State}

/-- While a command runs, dcLevel is what its last DC micro-operation set. -/
def State.LevelInv (s : State) : Prop :=
  ∀ job v, s.framerJob = some job → lastDcLevel (job.cmd.microOps.take job.m) = some v → s.dcLevel = v

theorem State.opcodeInv_iff :
    s.OpcodeInv ↔ (∀ bytes, Event.xfer .low bytes ∈ s.trace → bytes.length = 1) ∧ s.LevelInv := Iff.rfl

/-- Events that are no transfer keep the transfers. -/
theorem State.OpcodeInv.extend (inv : s.OpcodeInv) {events : List Event} (trace : t.trace = s.trace ++ events)
    (single : ∀ bytes, Event.xfer .low bytes ∈ events → bytes.length = 1) (level : t.LevelInv) : t.OpcodeInv := by
  refine ⟨fun bytes sent => ?_, level⟩
  rw [trace, List.mem_append] at sent
  exact sent.elim (inv.1 bytes) (single bytes)

theorem State.levelInv_of_idle (idle : s.framerJob = none) : s.LevelInv := by
  intro job v running
  simp [idle] at running

theorem xfer_not_mem_pinEvents (s old : State) (d : Pin) (bytes : List Byte) :
    Event.xfer d bytes ∉ pinEvents s old := by
  unfold pinEvents
  split <;> split <;> simp

/-- One more micro-operation, at the level that it leaves. -/
theorem State.LevelInv.next (inv : s.LevelInv) {job : FramerJob} (running : s.framerJob = some job) {op : MicroOp}
    (current : job.cmd.microOps[job.m]? = some op) (runs : t.framerJob = some job.next)
    (level : op.levelAfter (some s.dcLevel) = some t.dcLevel) : t.LevelInv := by
  rintro new v isNew last
  obtain rfl := Option.some.inj (runs.symm.trans isNew)
  rw [FramerJob.next, List.take_add_one, current, Option.toList_some, lastDcLevel_append_singleton] at last
  cases op with
  | dc l => exact (Option.some.inj level).symm.trans (Option.some.inj last)
  | xfer | openBus | closeBus | done => exact (Option.some.inj level).symm.trans (inv job v running last)

/-- A wait leaves the micro-operation and the level. -/
theorem State.LevelInv.await (inv : s.LevelInv) {job : FramerJob} (running : s.framerJob = some job) {r : Request}
    (runs : t.framerJob = some (job.await r)) (level : t.dcLevel = s.dcLevel) : t.LevelInv := by
  rintro new v isNew last
  obtain rfl := Option.some.inj (runs.symm.trans isNew)
  exact level.trans (inv job v running last)

/-- The DC pin is low only if dcLevel is. -/
theorem State.dcLevel_of_dcPin_low (low : s.dcPin = .low) : s.dcLevel = false := by
  cases level : s.dcLevel with
  | false => rfl
  | true =>
    have notLow : s.dcPin = if s.ctrl.dcOe then .high else .released := by
      rw [State.dcPin, level]
      rfl
    rw [notLow] at low
    split at low <;> cases low

/-- R124: a transfer that a command sends with DC low is one byte. -/
theorem State.LevelInv.single (inv : s.LevelInv) {job : FramerJob} {src : ByteSource} (ready : Ready s job (.xfer src))
    (low : s.dcPin = .low) : (src.resolve s.fb).length = 1 := by
  rcases job.cmd.opcodesLow.at_index ready.current with high | ⟨b, rfl⟩
  · rw [← lastDcLevel_eq_foldl] at high
    exact absurd (inv job true ready.running high) (by simp [State.dcLevel_of_dcPin_low low])
  · rfl

theorem IssueEffect.levelInv (effect : IssueEffect s t) (inv : s.LevelInv) : t.LevelInv := by
  cases effect with
  | record | draw => exact inv
  | framer cmd b idle =>
    intro job v running last
    obtain rfl := Option.some.inj running
    simp [lastDcLevel] at last

theorem HostEffect.opcodeInv {a : Access} (effect : HostEffect a s t) (inv : s.OpcodeInv) : t.OpcodeInv := by
  cases effect with
  | ctrl c => exact inv.extend rfl (fun _ sent => absurd sent (xfer_not_mem_pinEvents _ _ _ _)) inv.2
  | issue _ issued =>
    exact inv.extend (events := []) (by rw [issued.frame, List.append_nil]) (by simp) (issued.levelInv inv.2)
  | idle | window | acknowledge | clock | operand => exact inv

theorem FramerEffect.opcodeInv (effect : FramerEffect s t) (framerInv : s.FramerInv) (inv : s.OpcodeInv) :
    t.OpcodeInv := by
  have level : s.LevelInv := inv.2
  cases effect with
  | still => exact inv
  | dc job v ready =>
    exact inv.extend rfl (fun _ sent => absurd sent (xfer_not_mem_pinEvents _ _ _ _))
      (level.next ready.running ready.current rfl rfl)
  | skipOpen job _ ready | skipClose job ready => exact ⟨inv.1, level.next ready.running ready.current rfl rfl⟩
  | xfer job src ready =>
    refine inv.extend rfl (fun bytes sent => ?_) (level.await ready.running rfl rfl)
    obtain ⟨low, rfl⟩ : .low = s.dcPin ∧ bytes = src.resolve s.fb := by simpa using sent
    exact level.single ready low.symm
  | openBus job _ ready | closeBus job ready => exact inv.extend rfl (by simp) (level.await ready.running rfl rfl)
  | done job ready =>
    rw [framerComplete_eq]
    exact ⟨inv.1, State.levelInv_of_idle rfl⟩
  | refused => exact ⟨inv.1, State.levelInv_of_idle rfl⟩
  | answered job r running waits =>
    obtain ⟨-, consistent⟩ := (State.framerInv_of_running running).mp framerInv
    obtain ⟨⟨op, current, issues⟩, -⟩ := consistent.request r waits
    have leaves : op.levelAfter (some s.dcLevel) = some s.dcLevel := by
      cases op with
      | dc => cases issues
      | xfer | openBus | closeBus | done => rfl
    exact inv.extend rfl (by simp) (level.next running current rfl leaves)
  | failed =>
    exact inv.extend (events := [.ans .fail]) rfl (by simp) (State.levelInv_of_idle rfl)

theorem drawStep_opcodeInv (inv : s.OpcodeInv) : (drawStep s).OpcodeInv := by
  rw [drawStep_frame]
  exact inv

theorem State.OpcodeInv.blockReset (inv : s.OpcodeInv) (fill : List Host.Cell) : (s.blockReset fill).OpcodeInv :=
  inv.extend (events := [.reset]) rfl (by simp) (State.levelInv_of_idle rfl)

end

/-- Settles O55: dcLevel follows the running command (`State.LevelInv`), whose micro-operations send only opcodes before
it is high (`FramerCmd.opcodesLow`). -/
theorem stepKeepsOpcodeTransfersSingle : Obligations.StepKeepsOpcodeTransfersSingle := by
  intro s t framerInv opcodeInv stepped
  refine (step_keeps_of_effects (Inv := fun s => s.FramerInv ∧ s.OpcodeInv) (fun _ _ _ inv => inv) ?host ?draw ?framer
    ?reset ⟨framerInv, opcodeInv⟩ stepped).2
  case host => exact fun effect inv => ⟨effect.framerInv inv.1, effect.opcodeInv inv.2⟩
  case draw => exact fun inv => ⟨drawStep_framerInv inv.1, drawStep_opcodeInv inv.2⟩
  case framer => exact fun effect inv => ⟨effect.framerInv inv.1, effect.opcodeInv inv.1 inv.2⟩
  case reset => exact fun s fill inv => ⟨s.blockReset_framerInv fill, inv.2.blockReset fill⟩

/-! ### The clock rates and the point index -/

/-- R32: a clock rate as it is stored has its low 16 bits 0. -/
theorem toNat_clock_mod (v : Word) : (v &&& 0xFFFF0000#32).toNat % 65536 = 0 := by
  have stored : v &&& 0xFFFF0000#32 = v.extractLsb' 16 16 ++ 0#16 := and_allOnes_append_zero (n := 16) (m := 16) v
  rw [stored, BitVec.toNat_append, ← Nat.shiftLeft_add_eq_or_of_lt (BitVec.isLt _), Nat.shiftLeft_eq]
  simp

section
variable {s t : State}

/-- A framer turn or an answer does not change the running command. -/
theorem FramerEffect.sameCmd (effect : FramerEffect s t) {new : FramerJob} (runs : t.framerJob = some new) :
    ∃ job, s.framerJob = some job ∧ new.cmd = job.cmd := by
  cases effect with
  | still => exact ⟨new, runs, rfl⟩
  | dc job _ ready | skipOpen job _ ready | skipClose job ready | xfer job _ ready | openBus job _ ready
  | closeBus job ready =>
    obtain rfl := Option.some.inj runs
    exact ⟨job, ready.running, rfl⟩
  | answered job _ running =>
    obtain rfl := Option.some.inj runs
    exact ⟨job, running, rfl⟩
  | done job =>
    rw [framerComplete_eq] at runs
    cases runs
  | refused | failed => cases runs

theorem FramerEffect.clockInv (effect : FramerEffect s t) (inv : s.ClockInv) : t.ClockInv := by
  have clock : t.clockHz = s.clockHz := by rw [effect.frame.rest]
  refine ⟨clock ▸ inv.1, fun new clk runs isOpen => ?_⟩
  obtain ⟨job, running, sameCmd⟩ := effect.sameCmd runs
  exact inv.2 job clk running (sameCmd ▸ isOpen)

theorem HostEffect.clockInv {a : Access} (effect : HostEffect a s t) (inv : s.ClockInv) : t.ClockInv := by
  cases effect with
  | clock v => exact ⟨toNat_clock_mod v, inv.2⟩
  | issue _ issued =>
    cases issued with
    | record | draw => exact inv
    | framer cmd b _ clock =>
      refine ⟨inv.1, fun job clk running isOpen => ?_⟩
      obtain rfl := Option.some.inj running
      exact clock clk isOpen ▸ inv.1
  | idle | window | ctrl | acknowledge | operand => exact inv

theorem drawStep_clockInv (inv : s.ClockInv) : (drawStep s).ClockInv := by
  rw [drawStep_frame]
  exact inv

theorem State.blockReset_clockInv (s : State) (fill : List Host.Cell) : (s.blockReset fill).ClockInv :=
  ⟨show State.reset.clockHz.toNat % 65536 = 0 by decide, fun _ _ running => by cases running⟩

theorem FramerEffect.drawInv (effect : FramerEffect s t) (inv : s.DrawInv) : t.DrawInv := by
  rw [effect.frame.rest]
  exact inv

theorem HostEffect.drawInv {a : Access} (effect : HostEffect a s t) (inv : s.DrawInv) : t.DrawInv := by
  cases effect with
  | issue _ issued =>
    cases issued with
    | record | framer => exact inv
    | draw cmd =>
      intro job running
      obtain rfl := Option.some.inj running
      exact Nat.zero_le _
  | idle | window | ctrl | acknowledge | clock | operand => exact inv

/-- R41: a plot step moves k past a point of the list. -/
theorem drawStep_drawInv (inv : s.DrawInv) : (drawStep s).DrawInv := by
  rcases drawStep_cases s with ⟨-, taken⟩ | ⟨job, p, -, current, taken⟩ | ⟨job, -, -, taken⟩
  · rwa [taken]
  · rw [taken]
    intro new running
    obtain rfl := Option.some.inj running
    exact (List.getElem?_eq_some_iff.mp current).1
  · rw [taken, drawComplete_eq]
    intro new running
    cases running

theorem State.blockReset_drawInv (s : State) (fill : List Host.Cell) : (s.blockReset fill).DrawInv := by
  intro job running
  cases running

end

/-- Settles O56: CLOCK_HZ is stored with its low half 0 (`toNat_clock_mod`) and latched from there, and k passes one
point of the list at a time (`drawStep_drawInv`). -/
theorem stepKeepsClockAndIndexBounds : Obligations.StepKeepsClockAndIndexBounds := fun _ _ clockInv drawInv stepped =>
  ⟨step_keeps_of_effects (Inv := State.ClockInv) (fun _ _ _ inv => inv) HostEffect.clockInv drawStep_clockInv
      FramerEffect.clockInv (fun s fill _ => s.blockReset_clockInv fill) clockInv stepped,
    step_keeps_of_effects (Inv := State.DrawInv) (fun _ _ _ inv => inv) HostEffect.drawInv drawStep_drawInv
      FramerEffect.drawInv (fun s fill _ => s.blockReset_drawInv fill) drawInv stepped⟩

/-- Settles O57: right after reset nothing is listed, nothing runs, and nothing has been emitted. -/
theorem resetMeetsEveryInvariant : Obligations.ResetMeetsEveryInvariant := by
  refine ⟨Memory.wf_nil, ⟨by decide, ?_⟩, ?_, (State.framerInv_of_idle rfl).mpr rfl, rfl, ?_,
    State.levelInv_of_idle rfl⟩
  · intro job clk running
    cases running
  · intro job running
    cases running
  · intro bytes sent
    cases sent

/-! ## The recorded conditions -/

section
variable {s t : State}

theorem drawStep_sticky_kept (s : State) : (drawStep s).sticky &&& s.sticky = s.sticky := by
  obtain ⟨b, -, bits⟩ := drawStep_sticky s
  rw [bits]
  exact or_and_self ..

/-- A condition stays recorded while no sticky bit falls. -/
theorem State.has_of_kept (kept : t.sticky &&& s.sticky = s.sticky) {c : Condition} (recorded : s.has c = true) :
    t.has c = true := by
  unfold State.has at recorded ⊢
  rw [← kept, BitVec.getLsbD_and, Bool.and_eq_true] at recorded
  exact recorded.1

/-- R28, R29: a host access lets a recorded condition fall only by a 4-byte write to STATUS of a word with its bit
set. -/
theorem HostEffect.falls {a : Access} (effect : HostEffect a s t) {c : Condition} (recorded : s.has c = true)
    (fallen : t.has c = false) :
    ∃ v, a = { dir := .write, offset := 0x0008, size := .four, wdata := v } ∧ v.getLsbD c.code = true := by
  cases effect with
  | acknowledge v place dir size data =>
    obtain ⟨d, o, n, w⟩ := a
    subst place dir size data
    have cleared : (s.has c && !w.getLsbD c.code) = false := (State.has_acknowledge s w c).symm.trans fallen
    exact ⟨w, rfl, by simpa [recorded] using cleared⟩
  | issue _ issued => exact absurd (State.has_of_kept issued.sticky_kept recorded) (ne_true_of_eq_false fallen)
  | idle | window | ctrl | clock | operand => exact absurd recorded (ne_true_of_eq_false fallen)

/-- R28: the turns that let a recorded condition fall. -/
theorem afterTurn_falls {u : Turn} {c : Condition} (recorded : s.has c = true)
    (fallen : (afterTurn s u).has c = false) :
    (∃ v, u = .host { dir := .write, offset := 0x0008, size := .four, wdata := v } ∧ v.getLsbD c.code = true) ∨
      ∃ fill, u = .reset fill := by
  cases u with
  | host a =>
    obtain ⟨r, effect⟩ := afterAccess_effect a s
    obtain ⟨v, rfl, named⟩ := effect.falls (s := { s with response := r }) recorded fallen
    exact .inl ⟨v, rfl, named⟩
  | draw => exact absurd (State.has_of_kept (drawStep_sticky_kept s) recorded) (ne_true_of_eq_false fallen)
  | framer =>
    exact absurd (State.has_of_kept (framerStep_effect s).frame.sticky_kept recorded) (ne_true_of_eq_false fallen)
  | transport o =>
    exact absurd (State.has_of_kept (transportStep_effect o s).frame.sticky_kept recorded) (ne_true_of_eq_false fallen)
  | reset fill => exact .inr ⟨fill, rfl⟩

end

/-- Settles O17: the turn taken is the agenda's first (`afterTurn_falls`); a default turn is an engine's, which no
condition falls by. -/
theorem stickyBitsFallOnlyByHostOrReset : Obligations.StickyBitsFallOnlyByHostOrReset := by
  intro s t c stepped recorded fallen
  rcases step_cases stepped with ⟨-, rfl⟩ | ⟨u, rest, agenda, rfl⟩
  · rcases afterTurn_falls recorded fallen with ⟨v, isHost, -⟩ | ⟨fill, isReset⟩
    · unfold defaultTurn at isHost
      split at isHost <;> cases isHost
    · unfold defaultTurn at isReset
      split at isReset <;> cases isReset
  · rcases afterTurn_falls (s := { s with agenda := rest }) recorded fallen with ⟨v, rfl, named⟩ | ⟨fill, rfl⟩
    · exact .inl ⟨v, rest, agenda, named⟩
    · exact .inr ⟨fill, rest, agenda⟩

/-! ## The frames of the engines' turns -/

/-- Settles O48: `FramerEffect.frame`, for either turn. -/
theorem framerTurnChangesOnlyItsOwn : Obligations.FramerTurnChangesOnlyItsOwn := by
  intro s t u isEngine taken
  rw [runTurns_eq] at taken
  obtain rfl := Host.Outcome.next.inj taken
  have effect : FramerEffect s (afterTurn s u) := by
    rcases isEngine with rfl | ⟨o, rfl⟩
    · exact framerStep_effect s
    · exact transportStep_effect o s
  obtain ⟨rest, bits, kept, grows⟩ := effect.frame
  exact ⟨rest, bits, kept, grows⟩

/-- Settles O28: a draw turn is one plot, whose bytes are those of `Memory.read_writePixel`, or the completion, or
nothing (`drawStep_cases`). -/
theorem drawTurnChangesOnlyItsOwn : Obligations.DrawTurnChangesOnlyItsOwn := by
  intro s t ⟨sorted, _⟩ taken
  rw [runTurns_eq] at taken
  obtain rfl : drawStep s = t := Host.Outcome.next.inj taken
  obtain ⟨b, inside, bits⟩ := drawStep_sticky s
  refine ⟨drawStep_frame s, bits ▸ or_or_of_subset s.sticky inside, drawStep_sticky_kept s, ?cursor, ?plotted,
    ?completed, ?idle⟩
  case cursor =>
    intro moved
    rcases drawStep_cases s with ⟨-, taken⟩ | ⟨job, p, -, -, taken⟩ | ⟨job, running, -, taken⟩
    · exact absurd (congrArg State.cursor taken) moved
    · exact absurd (by rw [taken, State.plot_eq]) moved
    · rw [taken, drawComplete_eq] at moved ⊢
      have isClear : job.cmd = .clear := by
        by_contra other
        exact moved (if_neg other)
      exact ⟨if_pos isClear, job, running, isClear, rfl⟩
  case plotted =>
    intro job p running current k inFb notByte1 notByte2
    have plotted : (drawStep s).fb = Memory.writePixel s.fb p (job.cmd.penColor job.color) := by
      simp only [drawStep, running, current, State.plot_fb]
    rw [plotted, Memory.read_writePixel sorted _ _ _ inFb, if_neg notByte1, if_neg notByte2]
  case completed =>
    intro job running past
    simp only [drawStep, running, past, drawComplete_eq]
  case idle =>
    intro idle
    simp only [drawStep, idle]

/-! ## Every interleaving -/

/-- A property that each turn of a list keeps, in the state in which that turn is taken, holds after the list. -/
theorem afterTurns_keeps {Inv : State → Prop} {ts : List Turn} {s : State} (start : Inv s)
    (turn : ∀ n u, ts[n]? = some u → Inv (afterTurns (ts.take n) s) → Inv (afterTurn (afterTurns (ts.take n) s) u)) :
    Inv (afterTurns ts s) := by
  have upTo : ∀ n ≤ ts.length, Inv (afterTurns (ts.take n) s) := by
    intro n
    induction n with
    | zero => exact fun _ => start
    | succ n ih =>
      intro inside
      have here := List.getElem?_eq_getElem (show n < ts.length from inside)
      have kept := turn n _ here (ih (by omega))
      rwa [List.take_add_one, here, afterTurns_append]
  have all := upTo ts.length le_rfl
  rwa [List.take_length] at all

section
variable {s : State}

/-! ### The draw engine -/

theorem HostEffect.drawJob_of_busy {a : Access} {t : State} (effect : HostEffect a s t) (busy : s.drawJob ≠ none) :
    t.drawJob = s.drawJob := by
  cases effect with
  | issue _ issued => exact issued.drawJob_of_busy busy
  | idle | window | ctrl | acknowledge | clock | operand => rfl

theorem afterAccess_drawJob_of_busy (a : Access) (busy : s.drawJob ≠ none) :
    (afterAccess a s).drawJob = s.drawJob := by
  obtain ⟨r, effect⟩ := afterAccess_effect a s
  exact effect.drawJob_of_busy busy

/-- R169: no turn but its own moves a running draw command, a reset aside. -/
theorem afterTurn_drawJob_of_other {u : Turn} (busy : s.drawJob ≠ none) (notReset : u.isReset = false)
    (notDraw : u ≠ .draw) : (afterTurn s u).drawJob = s.drawJob := by
  cases u with
  | host a => exact afterAccess_drawJob_of_busy a busy
  | draw => exact absurd rfl notDraw
  | framer =>
    show (framerStep s).drawJob = _
    rw [(framerStep_effect s).frame.rest]
  | transport o =>
    show (transportStep o s).drawJob = _
    rw [(transportStep_effect o s).frame.rest]
  | reset fill => cases notReset

variable {job : DrawJob} (running : s.drawJob = some job)
include running

/-- R150: a plot step. -/
theorem drawStep_of_point {p : Point} (current : job.cmd.points[job.k]? = some p) :
    drawStep s =
      { s.plot p (job.cmd.penColor job.color) with drawJob := some { job with k := job.k + 1 } } := by
  simp only [drawStep, running, current]

/-- R168: the completion step. -/
theorem drawStep_of_end (atEnd : job.cmd.points.length ≤ job.k) : drawStep s = drawComplete job s := by
  simp only [drawStep, running, List.getElem?_eq_none atEnd]

theorem drawStep_drawJob_of_lt (inside : job.k < job.cmd.points.length) :
    (drawStep s).drawJob = some { job with k := job.k + 1 } := by
  rw [drawStep_of_point running (List.getElem?_eq_getElem inside)]

end

theorem drawTurns_cons_draw (ts : List Turn) : drawTurns (.draw :: ts) = drawTurns ts + 1 := List.count_cons_self

theorem drawTurns_cons_other {u : Turn} (notDraw : u ≠ .draw) (ts : List Turn) : drawTurns (u :: ts) = drawTurns ts :=
  List.count_cons_of_ne notDraw

/-- R22, R94: while the index is inside the list, a draw turn is a plot step, and no other turn touches the draw engine
(`afterTurn_drawJob_of_other`). -/
theorem afterTurns_drawJob (ts : List Turn) :
    ∀ {s : State} {job : DrawJob}, s.drawJob = some job → (∀ u ∈ ts, u.isReset = false) →
      job.k + drawTurns ts ≤ job.cmd.points.length →
        (afterTurns ts s).drawJob = some { job with k := job.k + drawTurns ts } := by
  induction ts with
  | nil => exact fun running _ _ => running
  | cons u us ih =>
    intro s job running resetFree enough
    obtain ⟨notReset, noReset⟩ := List.forall_mem_cons.mp resetFree
    by_cases isDraw : u = .draw
    · subst isDraw
      rw [drawTurns_cons_draw, Nat.add_comm (drawTurns us), ← Nat.add_assoc] at enough ⊢
      exact ih (drawStep_drawJob_of_lt running (by omega)) noReset enough
    · rw [drawTurns_cons_other isDraw] at enough ⊢
      have kept := afterTurn_drawJob_of_other (Option.ne_none_iff_exists'.mpr ⟨job, running⟩) notReset isDraw
      exact ih (kept.trans running) noReset enough

/-- The draw engine is idle, with DRAW_DONE recorded. -/
def State.DrawEnded (s : State) : Prop := s.drawJob = none ∧ s.has .drawDone = true

theorem drawComplete_drawEnded (job : DrawJob) (s : State) : (drawComplete job s).DrawEnded := by
  rw [drawComplete_eq]
  exact ⟨rfl, by simp [State.has, Condition.getLsbD_mask]⟩

/-- R170: a draw turn with the index at the end completes, and one before it moves the index on. -/
theorem exists_drawEnded (ts : List Turn) :
    ∀ {s : State} {job : DrawJob}, s.drawJob = some job → (∀ u ∈ ts, u.isReset = false) →
      job.cmd.points.length + 1 ≤ job.k + drawTurns ts → job.k ≤ job.cmd.points.length →
        ∃ n ≤ ts.length, (afterTurns (ts.take n) s).DrawEnded := by
  induction ts with
  | nil =>
    intro s job _ _ enough
    simp only [drawTurns, List.count_nil] at enough
    omega
  | cons u us ih =>
    intro s job running resetFree enough inside
    obtain ⟨notReset, noReset⟩ := List.forall_mem_cons.mp resetFree
    have later : (∃ n ≤ us.length, (afterTurns (us.take n) (afterTurn s u)).DrawEnded) →
        ∃ n ≤ (u :: us).length, (afterTurns ((u :: us).take n) s).DrawEnded :=
      fun ⟨n, short, ended⟩ => ⟨n + 1, Nat.succ_le_succ short, ended⟩
    by_cases isDraw : u = .draw
    · subst isDraw
      rw [drawTurns_cons_draw, Nat.add_comm (drawTurns us), ← Nat.add_assoc] at enough
      rcases inside.lt_or_eq with before | atEnd
      · exact later (ih (drawStep_drawJob_of_lt running before) noReset enough before)
      · refine later ⟨0, Nat.zero_le _, ?_⟩
        have completed : afterTurn s .draw = drawComplete job s := drawStep_of_end running atEnd.ge
        rw [List.take_zero, afterTurns_nil, completed]
        exact drawComplete_drawEnded job s
    · rw [drawTurns_cons_other isDraw] at enough
      have kept := afterTurn_drawJob_of_other (Option.ne_none_iff_exists'.mpr ⟨job, running⟩) notReset isDraw
      exact later (ih (kept.trans running) noReset enough inside)

/-- Settles O26: `afterTurns_drawJob`. -/
theorem drawIndexCountsDrawTurns : Obligations.DrawIndexCountsDrawTurns := by
  intro ts s t job running noReset enough taken
  rw [runTurns_eq] at taken
  obtain rfl := Host.Outcome.next.inj taken
  exact afterTurns_drawJob ts running noReset enough

/-- Settles O27: `exists_drawEnded`. -/
theorem drawCommandEndsUnderEveryInterleaving : Obligations.DrawCommandEndsUnderEveryInterleaving := by
  intro ts s job running noReset enough inside
  obtain ⟨n, short, idle, recorded⟩ := exists_drawEnded ts running noReset enough inside
  exact ⟨n, _, short, runTurns_eq _ _, idle, recorded⟩

/-! ### The framer -/

section
variable {s t : State}

theorem transportStep_of_none (nothing : s.pending = none) (o : Answer) : transportStep o s = s := by
  rcases transportStep_cases o s with ⟨-, still⟩ | ⟨job, r, running, waits, -⟩
  · exact still
  · simp [State.pending, running, waits] at nothing

theorem framerStep_of_waiting {job : FramerJob} (running : s.framerJob = some job) (waits : job.pending ≠ none) :
    framerStep s = s := by
  rcases framerStep_cases s with still | ⟨new, op, runs, idle, -⟩
  · exact still
  · obtain rfl := Option.some.inj (running.symm.trans runs)
    exact absurd idle waits

/-- R204: the ok answer to an outstanding request. -/
theorem transportStep_ok {job : FramerJob} {r : Request} (running : s.framerJob = some job)
    (waits : job.pending = some r) :
    transportStep .ok s =
      { s with
        framerJob := some job.next
        busOpen := if r = .openBus then true else s.busOpen
        trace := s.trace ++ [.ans .ok] } := by
  rcases transportStep_cases .ok s with ⟨nothing, -⟩ | ⟨new, r', runs, waits', answered⟩
  · simp [State.pending, running, waits] at nothing
  · obtain rfl := Option.some.inj (running.symm.trans runs)
    obtain rfl := Option.some.inj (waits.symm.trans waits')
    exact answered

/-- Settles O45: `transportStep_of_none`, `framerStep_of_waiting` and `transportStep_ok`. -/
theorem answerIsTakenOnlyWhileAwaited : Obligations.AnswerIsTakenOnlyWhileAwaited := by
  intro s
  refine ⟨fun nothing o => ?_, fun job r running waits => ⟨?_, ?_⟩⟩
  · exact (runTurns_eq _ s).trans (congrArg _ (transportStep_of_none nothing o))
  · exact (runTurns_eq _ s).trans (congrArg _ (framerStep_of_waiting running (by simp [waits])))
  · exact (runTurns_eq _ s).trans (congrArg _ (transportStep_ok running waits))

theorem HostEffect.framerJob_of_busy {a : Access} (effect : HostEffect a s t) (busy : s.framerJob ≠ none) :
    t.framerJob = s.framerJob := by
  cases effect with
  | issue _ issued => exact issued.framerJob_of_busy busy
  | idle | window | ctrl | acknowledge | clock | operand => rfl

theorem afterAccess_framerJob_of_busy (a : Access) (busy : s.framerJob ≠ none) :
    (afterAccess a s).framerJob = s.framerJob := by
  obtain ⟨r, effect⟩ := afterAccess_effect a s
  exact effect.framerJob_of_busy busy

theorem drawStep_framerJob (s : State) : (drawStep s).framerJob = s.framerJob := by rw [drawStep_frame]

/-- R298: without an answer and without a reset, a waiting command stays as it is. -/
theorem afterTurn_framerJob_of_waiting {job : FramerJob} {u : Turn} (running : s.framerJob = some job)
    (waits : job.pending ≠ none) (notReset : u.isReset = false) (notAnswer : u.isTransport = false) :
    (afterTurn s u).framerJob = some job := by
  cases u with
  | host a => exact (afterAccess_framerJob_of_busy a (Option.ne_none_iff_exists'.mpr ⟨job, running⟩)).trans running
  | draw => exact (drawStep_framerJob s).trans running
  | framer => exact (congrArg State.framerJob (framerStep_of_waiting running waits)).trans running
  | transport o => cases notAnswer
  | reset fill => cases notReset

end

/-- Settles O47: each turn leaves the waiting command (`afterTurn_framerJob_of_waiting`), and a busy framer drops the
REFRESH (`acceptFramer_of_busy`). -/
theorem stalledTransportHoldsTheFramer : Obligations.StalledTransportHoldsTheFramer := by
  intro ts s t job running waits others taken
  rw [runTurns_eq] at taken
  obtain rfl := Host.Outcome.next.inj taken
  have held : (afterTurns ts s).framerJob = some job := by
    refine afterTurns_keeps (Inv := fun s => s.framerJob = some job) running fun n u here held => ?_
    obtain ⟨notReset, notAnswer⟩ := others u (List.mem_of_getElem? here)
    exact afterTurn_framerJob_of_waiting held waits notReset notAnswer
  exact ⟨held, congrArg Host.Outcome.next (acceptFramer_of_busy (Option.ne_none_iff_exists'.mpr ⟨job, held⟩) .refresh)⟩

/-! ### Rounds of a framer turn and an answer -/

/-- A framer turn and then an answer. -/
def answeredRound (o : Answer) (s : State) : State := transportStep o (framerStep s)

theorem afterTurns_answeredRounds_cons (o : Answer) (os : List Answer) (s : State) :
    afterTurns (answeredRounds (o :: os)) s = afterTurns (answeredRounds os) (answeredRound o s) := rfl

section
variable {s : State}

theorem framerStep_of_idle (idle : s.framerJob = none) : framerStep s = s := by
  simp only [framerStep, idle]

theorem afterTurns_answeredRounds_of_idle (idle : s.framerJob = none) (os : List Answer) :
    afterTurns (answeredRounds os) s = s := by
  induction os with
  | nil => rfl
  | cons o os ih =>
    have still : answeredRound o s = s := by
      rw [answeredRound, framerStep_of_idle idle, transportStep_of_none (by simp [State.pending, idle])]
    rw [afterTurns_answeredRounds_cons, still, ih]

variable {job : FramerJob} {op : MicroOp} (ready : Ready s job op)
include ready

/-- A round whose micro-operation issues no request is that micro-operation. -/
theorem answeredRound_of_quiet {t : State} (taken : microStep job op s = t) (nothing : t.pending = none) (o : Answer) :
    answeredRound o s = t := by
  rw [answeredRound, framerStep_of_ready ready.running ready.idle ready.current, taken, transportStep_of_none nothing]

/-- A round whose request is answered ok. -/
theorem answeredRound_ok {t : State} {r : Request} (taken : microStep job op s = t)
    (waits : t.framerJob = some (job.await r)) :
    answeredRound .ok s =
      { t with
        framerJob := some job.next
        busOpen := if r = .openBus then true else t.busOpen
        trace := t.trace ++ [.ans .ok] } := by
  rw [answeredRound, framerStep_of_ready ready.running ready.idle ready.current, taken, transportStep_ok waits rfl]
  rfl

/-- A round whose request is answered fail. -/
theorem answeredRound_fail {t : State} {r : Request} (taken : microStep job op s = t)
    (waits : t.framerJob = some (job.await r)) : answeredRound .fail s = framerAbort (t.emit (.ans .fail)) := by
  rw [answeredRound, framerStep_of_ready ready.running ready.idle ready.current, taken,
    transportStep_fail waits (by simp [FramerJob.await])]

end

/-- The framer is idle, with FRAMER_DONE recorded. -/
def State.FramerEnded (s : State) : Prop := s.framerJob = none ∧ s.has .framerDone = true

theorem framerAbort_framerEnded (s : State) : (framerAbort s).FramerEnded :=
  ⟨rfl, by simp [framerAbort_eq, State.has, Condition.getLsbD_mask]⟩

theorem framerComplete_framerEnded (cmd : FramerCmd) (s : State) : (framerComplete cmd s).FramerEnded := by
  rw [framerComplete_eq]
  refine ⟨rfl, ?_⟩
  by_cases isRefresh : cmd = .refresh <;> simp [isRefresh, State.has, Condition.getLsbD_mask]

/-- The command is at its next micro-operation, or ended. -/
def State.MovedOn (s : State) (job : FramerJob) : Prop := s.framerJob = some job.next ∨ s.FramerEnded

/-- R206, R209, R210: a round moves the command to its next micro-operation, or ends it. -/
theorem answeredRound_movedOn {s : State} {job : FramerJob} {op : MicroOp} (ready : Ready s job op) (o : Answer) :
    (answeredRound o s).MovedOn job := by
  have advances {t : State} (taken : microStep job op s = t) (runs : t.framerJob = some job.next) :
      (answeredRound o s).MovedOn job := by
    rw [answeredRound_of_quiet ready taken (by simp [State.pending, runs, FramerJob.next])]
    exact .inl runs
  have waits {t : State} {r : Request} (taken : microStep job op s = t) (waits : t.framerJob = some (job.await r)) :
      (answeredRound o s).MovedOn job := by
    cases o with
    | ok => exact .inl (by rw [answeredRound_ok ready taken waits])
    | fail => exact .inr (answeredRound_fail ready taken waits ▸ framerAbort_framerEnded _)
  have ends {t : State} (taken : microStep job op s = t) (ended : t.FramerEnded) : (answeredRound o s).MovedOn job := by
    rw [answeredRound_of_quiet ready taken (by simp [State.pending, ended.1])]
    exact .inr ended
  cases op with
  | dc v => exact advances (microStep_dc job v s) rfl
  | xfer src =>
    cases bus : s.busOpen with
    | true => exact waits (microStep_xfer_of_open bus job src) rfl
    | false => exact ends (microStep_xfer_of_closed bus job src) (framerAbort_framerEnded s)
  | openBus clk =>
    cases bus : s.busOpen with
    | true => exact advances (microStep_openBus_of_open bus job clk) rfl
    | false => exact waits (microStep_openBus_of_closed bus job clk) rfl
  | closeBus =>
    cases bus : s.busOpen with
    | true => exact waits (microStep_closeBus_of_open bus job) rfl
    | false => exact advances (microStep_closeBus_of_closed bus job) rfl
  | done => exact ends rfl (framerComplete_framerEnded job.cmd s)

theorem answeredRound_framerInv {s : State} (inv : s.FramerInv) (o : Answer) : (answeredRound o s).FramerInv :=
  (transportStep_effect o _).framerInv ((framerStep_effect s).framerInv inv)

/-- R301: as many rounds as there are micro-operations left end the command. -/
theorem afterTurns_answeredRounds_ends (os : List Answer) :
    ∀ {s : State} {job : FramerJob}, s.FramerInv → s.framerJob = some job → job.pending = none →
      job.cmd.microOps.length ≤ job.m + os.length →
        (afterTurns (answeredRounds os) s).FramerInv ∧ (afterTurns (answeredRounds os) s).FramerEnded := by
  induction os with
  | nil =>
    intro s job inv running _ enough
    have inside := ((State.framerInv_of_running running).mp inv).2.inside
    rw [List.length_nil] at enough
    omega
  | cons o os ih =>
    intro s job inv running idle enough
    have inside := ((State.framerInv_of_running running).mp inv).2.inside
    have kept := answeredRound_framerInv inv o
    rw [afterTurns_answeredRounds_cons]
    rcases answeredRound_movedOn ⟨running, idle, List.getElem?_eq_getElem inside⟩ o with goesOn | ended
    · refine ih kept goesOn rfl ?_
      show job.cmd.microOps.length ≤ job.m + 1 + os.length
      rw [List.length_cons] at enough
      omega
    · rw [afterTurns_answeredRounds_of_idle ended.1]
      exact ⟨kept, ended⟩

/-- Settles O46: the rounds end the command (`afterTurns_answeredRounds_ends`), and an idle framer's guard is clear. -/
theorem framerEndsWhenEveryRequestIsAnswered : Obligations.FramerEndsWhenEveryRequestIsAnswered := by
  intro s job os inv running idle enough
  obtain ⟨kept, ended, recorded⟩ := afterTurns_answeredRounds_ends os inv running idle enough
  exact ⟨_, runTurns_eq _ s, ended, (State.framerInv_of_idle ended).mp kept, recorded⟩

/-! ### What a REFRESH has sent -/

/-- The bytes of the transfers of the trace, in order. -/
def State.transfers (s : State) : List (List Byte) := s.trace.filterMap Event.transfer

theorem transferCount_eq_length (tr : List Event) : transferCount tr = (tr.filterMap Event.transfer).length := by
  rw [transferCount, List.length_filterMap_eq_countP]
  refine List.countP_congr fun e _ => ?_
  cases e <;> simp

/-- Where the bytes of a micro-operation's transfer come from. -/
def MicroOp.source (op : MicroOp) : Option ByteSource :=
  match op with
  | .xfer src => some src
  | .dc _ | .openBus _ | .closeBus | .done => none

/-- The transfers a command consists of. -/
def FramerCmd.sources (cmd : FramerCmd) : List ByteSource := cmd.microOps.filterMap MicroOp.source

/-- The transfers a running command has issued: those before its micro-operation m, and the one it waits for. -/
def FramerJob.issued (job : FramerJob) : List ByteSource :=
  (job.cmd.microOps.take (if job.pending = none then job.m else job.m + 1)).filterMap MicroOp.source

theorem FramerJob.issued_prefix (job : FramerJob) : job.issued <+: job.cmd.sources :=
  (List.take_prefix _ _).filterMap _

section
variable {job : FramerJob} {op : MicroOp}

theorem FramerJob.issued_next_of_idle (idle : job.pending = none) (current : job.cmd.microOps[job.m]? = some op) :
    job.next.issued = job.issued ++ op.source.toList := by
  simp only [FramerJob.issued, FramerJob.next, idle, if_true, List.take_add_one, current, List.filterMap_append,
    Option.toList_some]
  cases op <;> rfl

theorem FramerJob.issued_next_of_waiting (waits : job.pending ≠ none) : job.next.issued = job.issued := by
  simp only [FramerJob.issued, FramerJob.next, waits, if_true, if_false]

theorem FramerJob.issued_await (r : Request) : (job.await r).issued = job.next.issued := by
  simp only [FramerJob.issued, FramerJob.next, FramerJob.await, reduceCtorEq, if_true, if_false]

end

/-- DONE is the last micro-operation of a command, and no other. -/
theorem FramerCmd.succ_of_done {cmd : FramerCmd} {m : Nat} (current : cmd.microOps[m]? = some .done) :
    m + 1 = cmd.microOps.length := by
  have list : ∃ ops, cmd.microOps = ops ++ [.done] ∧ MicroOp.done ∉ ops := by
    cases cmd with
    | refresh | sendcmd | contrast | vscroll =>
      refine ⟨_, rfl, ?_⟩
      simp [frameBytes, frameBuffer, frameOpcode]
    | busOpen clk => exact ⟨[.openBus clk], rfl, by simp⟩
    | busClose => exact ⟨[.closeBus], rfl, by simp⟩
  obtain ⟨ops, list, only⟩ := list
  rw [list] at current ⊢
  have inside := (List.getElem?_eq_some_iff.mp current).1
  rw [List.length_append, List.length_singleton] at inside ⊢
  by_contra early
  rw [List.getElem?_append_left (by omega)] at current
  exact only (List.mem_of_getElem? current)

/-- At its DONE a command has issued all its transfers. -/
theorem FramerJob.issued_of_done {job : FramerJob} (idle : job.pending = none)
    (current : job.cmd.microOps[job.m]? = some .done) : job.issued = job.cmd.sources := by
  have all : job.next.issued = job.cmd.sources := by
    simp only [FramerJob.issued, FramerJob.next, if_true, FramerCmd.succ_of_done current, List.take_length]
    rfl
  rw [← all, FramerJob.issued_next_of_idle idle current]
  exact (List.append_nil _).symm

section
variable {s t : State}

/-- What a framer turn or an answer sends: the transfers it issues, from the framebuffer of that moment, while the
command goes on; and nothing when it ends, with all issued or ERR_TRANSPORT. -/
theorem FramerEffect.sends (effect : FramerEffect s t) {job : FramerJob} (running : s.framerJob = some job) :
    (∃ new srcs, t.framerJob = some new ∧ new.cmd = job.cmd ∧ new.issued = job.issued ++ srcs ∧
        t.transfers = s.transfers ++ srcs.map fun src => src.resolve s.fb) ∨
      (t.framerJob = none ∧ (job.cmd = .refresh → t.guard = false) ∧ t.transfers = s.transfers ∧
        (t.has .errTransport = true ∨ job.issued = job.cmd.sources)) := by
  have failed (s : State) : (framerAbort s).has .errTransport = true := by
    simp [framerAbort_eq, State.has, Condition.getLsbD_mask]
  cases effect with
  | still => exact .inl ⟨job, [], running, rfl, by simp, by simp⟩
  | dc job' _ ready | skipOpen job' _ ready | skipClose job' ready =>
    obtain rfl := Option.some.inj (running.symm.trans ready.running)
    exact .inl ⟨job.next, [], rfl, rfl, FramerJob.issued_next_of_idle ready.idle ready.current,
      by simp [State.transfers]⟩
  | xfer job' src ready =>
    obtain rfl := Option.some.inj (running.symm.trans ready.running)
    exact .inl ⟨job.await .xfer, [src], rfl, rfl,
      (FramerJob.issued_await _).trans (FramerJob.issued_next_of_idle ready.idle ready.current),
      by simp [State.transfers]⟩
  | openBus job' _ ready | closeBus job' ready =>
    obtain rfl := Option.some.inj (running.symm.trans ready.running)
    exact .inl ⟨job.await _, [], rfl, rfl,
      (FramerJob.issued_await _).trans (FramerJob.issued_next_of_idle ready.idle ready.current),
      by simp [State.transfers]⟩
  | done job' ready =>
    obtain rfl := Option.some.inj (running.symm.trans ready.running)
    rw [framerComplete_eq]
    exact .inr ⟨rfl, fun isRefresh => if_pos isRefresh, rfl, .inr (FramerJob.issued_of_done ready.idle ready.current)⟩
  | refused => exact .inr ⟨rfl, fun _ => rfl, rfl, .inl (failed s)⟩
  | answered job' r runs waits =>
    obtain rfl := Option.some.inj (running.symm.trans runs)
    exact .inl ⟨job.next, [], rfl, rfl, by simp [FramerJob.issued_next_of_waiting, waits], by simp [State.transfers]⟩
  | failed => exact .inr ⟨rfl, fun _ => rfl, by simp [State.transfers, framerAbort_eq], .inl (failed _)⟩

theorem HostEffect.transfers {a : Access} (effect : HostEffect a s t) : t.transfers = s.transfers := by
  cases effect with
  | ctrl => simp [State.transfers]
  | issue _ issued => rw [issued.frame]; rfl
  | idle | window | acknowledge | clock | operand => rfl

theorem drawStep_transfers (s : State) : (drawStep s).transfers = s.transfers := by
  rw [drawStep_frame]
  rfl

end

section
variable (Reads : ByteSource → List Byte → Prop) (before : List (List Byte)) (s : State)

/-- A REFRESH runs, and of its transfers it has sent, since the transfers before, those it has issued, each with bytes
that its source may give. -/
def State.Refreshing : Prop :=
  ∃ job sent, s.framerJob = some job ∧ job.cmd = .refresh ∧ s.transfers = before ++ sent ∧
    List.Forall₂ Reads job.issued sent

/-- A REFRESH has ended: all its transfers sent, or a part of them with ERR_TRANSPORT recorded. -/
def State.Refreshed : Prop :=
  s.framerJob = none ∧ s.guard = false ∧ ∃ srcs sent, s.transfers = before ++ sent ∧ List.Forall₂ Reads srcs sent ∧
    srcs <+: FramerCmd.refresh.sources ∧ (s.has .errTransport = true ∨ srcs = FramerCmd.refresh.sources)

end

section
variable {Reads : ByteSource → List Byte → Prop} {before : List (List Byte)} {s : State}

theorem State.Refreshing.framer {t : State} (refreshing : s.Refreshing Reads before) (effect : FramerEffect s t)
    (reads : ∀ src, Reads src (src.resolve s.fb)) : t.Refreshing Reads before ∨ t.Refreshed Reads before := by
  obtain ⟨job, sent, running, isRefresh, transfers, issued⟩ := refreshing
  rcases effect.sends running with ⟨new, srcs, runs, sameCmd, more, sends⟩ | ⟨idle, guard, still, complete⟩
  · refine .inl ⟨new, sent ++ srcs.map fun src => src.resolve s.fb, runs, sameCmd.trans isRefresh, ?_, ?_⟩
    · rw [sends, transfers, List.append_assoc]
    · rw [more]
      refine List.rel_append issued (List.forall₂_map_right_iff.mpr ?_)
      exact List.forall₂_same.mpr fun src _ => reads src
  · rw [isRefresh] at complete
    exact .inr ⟨idle, guard isRefresh, job.issued, sent, still.trans transfers, issued, isRefresh ▸ job.issued_prefix,
      complete⟩

/-- Every turn but a reset lets a REFRESH go on or ends it. -/
theorem State.Refreshing.turn (refreshing : s.Refreshing Reads before) (reads : ∀ src, Reads src (src.resolve s.fb))
    {u : Turn} (notReset : u.isReset = false) :
    (afterTurn s u).Refreshing Reads before ∨ (afterTurn s u).Refreshed Reads before := by
  cases u with
  | host a =>
    obtain ⟨job, sent, running, isRefresh, transfers, issued⟩ := refreshing
    obtain ⟨r, effect⟩ := afterAccess_effect a s
    have kept := afterAccess_framerJob_of_busy a (Option.ne_none_iff_exists'.mpr ⟨job, running⟩)
    exact .inl ⟨job, sent, kept.trans running, isRefresh, effect.transfers.trans transfers, issued⟩
  | draw =>
    obtain ⟨job, sent, running, isRefresh, transfers, issued⟩ := refreshing
    exact .inl ⟨job, sent, (drawStep_framerJob s).trans running, isRefresh, (drawStep_transfers s).trans transfers,
      issued⟩
  | framer => exact refreshing.framer (framerStep_effect s) reads
  | transport o => exact refreshing.framer (transportStep_effect o s) reads
  | reset fill => cases notReset

/-- A REFRESH just accepted has sent nothing. -/
theorem State.refreshing_of_accepted (accepted : s.framerJob = some { cmd := .refresh, m := 0, pending := none }) :
    s.Refreshing Reads s.transfers :=
  ⟨_, [], accepted, rfl, (List.append_nil _).symm, .nil⟩

end

/-- R214: a REFRESH consists of thirteen transfers. -/
theorem length_sources_refresh : FramerCmd.refresh.sources.length = 13 := by decide

/-- Settles O43: a REFRESH goes on or ends (`State.Refreshing.turn`), whatever bytes it reads, and an end without
ERR_TRANSPORT has sent all of its transfers. -/
theorem refreshTransferCountUnderEveryInterleaving : Obligations.RefreshTransferCountUnderEveryInterleaving := by
  intro ts s t accepted noReset busy taken ended noError
  rw [runTurns_eq] at taken
  obtain rfl := Host.Outcome.next.inj taken
  let Any : ByteSource → List Byte → Prop := fun _ _ => True
  have course : (afterTurns ts s).Refreshing Any s.transfers ∨ (afterTurns ts s).Refreshed Any s.transfers := by
    refine afterTurns_keeps (Inv := fun v => v.Refreshing Any s.transfers ∨ v.Refreshed Any s.transfers)
      (.inl (State.refreshing_of_accepted accepted)) fun n u here course => ?_
    have runs := busy n _ (List.getElem?_eq_some_iff.mp here).1 (runTurns_eq _ s)
    rcases course with refreshing | ⟨idle, -⟩
    · exact refreshing.turn (fun _ => trivial) (noReset u (List.mem_of_getElem? here))
    · exact absurd idle runs
  rcases course with ⟨job, _, running, -⟩ | ⟨-, -, srcs, sent, transfers, issued, -, complete⟩
  · simp [running] at ended
  · rw [noError] at complete
    obtain rfl := complete.resolve_left Bool.false_ne_true
    rw [transferCount_eq_length, transferCount_eq_length]
    show (State.transfers _).length = s.transfers.length + 13
    rw [transfers, List.length_append, ← issued.length_eq, length_sources_refresh]

/-! ### A REFRESH under the host obligation -/

section
variable {s : State}

theorem HostEffect.trace_prefix {a : Access} {t : State} (effect : HostEffect a s t) : s.trace <+: t.trace := by
  cases effect with
  | ctrl => exact List.prefix_append ..
  | issue _ issued => rw [issued.frame]
  | idle | window | acknowledge | clock | operand => exact List.prefix_rfl

theorem FramerEffect.trace_prefix {t : State} (effect : FramerEffect s t) : s.trace <+: t.trace := by
  obtain ⟨more, grows⟩ := effect.frame.trace_grows
  exact ⟨more, grows.symm⟩

/-- Every turn but a reset appends to the trace. -/
theorem afterTurn_trace_prefix {u : Turn} (notReset : u.isReset = false) : s.trace <+: (afterTurn s u).trace := by
  cases u with
  | host a =>
    obtain ⟨r, effect⟩ := afterAccess_effect a s
    exact effect.trace_prefix
  | draw =>
    show s.trace <+: (drawStep s).trace
    rw [drawStep_frame]
  | framer => exact (framerStep_effect s).trace_prefix
  | transport o => exact (transportStep_effect o s).trace_prefix
  | reset fill => cases notReset

/-- R81: only a window write changes the framebuffer. -/
theorem HostEffect.fb_of_register {a : Access} {t : State} (effect : HostEffect a s t)
    (register : a.dir = .write → a.offset < Config.windowBase) : t.fb = s.fb := by
  cases effect with
  | window i dir place =>
    have below := register dir
    omega
  | issue _ issued => rw [issued.frame]
  | idle | ctrl | acknowledge | clock | operand => rfl

/-- R294: while the guard is set, a turn that keeps the host obligation leaves the framebuffer. -/
theorem afterTurn_fb_of_quiet {u : Turn} (guard : s.guard = true) (notReset : u.isReset = false)
    (quiet : u.keepsFrameQuiet s) : (afterTurn s u).fb = s.fb := by
  obtain ⟨notDraw, register⟩ := quiet guard
  cases u with
  | host a =>
    obtain ⟨r, effect⟩ := afterAccess_effect a s
    exact effect.fb_of_register (register a rfl)
  | draw => exact absurd rfl notDraw
  | framer =>
    show (framerStep s).fb = s.fb
    rw [(framerStep_effect s).frame.rest]
  | transport o =>
    show (transportStep o s).fb = s.fb
    rw [(transportStep_effect o s).frame.rest]
  | reset fill => cases notReset

end

/-- Bytes read from one framebuffer are those that their sources give from it. -/
theorem eq_map_of_forall₂_resolve {fb : Memory} {srcs : List ByteSource} {sent : List (List Byte)}
    (reads : List.Forall₂ (fun src bytes => bytes = src.resolve fb) srcs sent) :
    sent = srcs.map fun src => src.resolve fb := by
  induction reads with
  | nil => rfl
  | cons read _ ih => rw [List.map_cons, read, ih]

/-- R213: the bytes of a REFRESH of one framebuffer. -/
theorem map_resolve_sources_refresh (fb : Memory) :
    (FramerCmd.refresh.sources.map fun src => src.resolve fb) =
      [[0x15#8], [0x00#8, 0x7F#8], [0x75#8], [0x00#8, 0x7F#8], [0x5C#8]] ++
        (List.range 8).map fun j => (List.range 4096).map fun i => Memory.read fb (4096 * j + i) := rfl

/-- Settles O49: a quiet turn leaves the framebuffer (`afterTurn_fb_of_quiet`), so a REFRESH reads the one of the start
(`State.Refreshing.turn`), and when it ends the guard falls, so that no turn comes after. -/
theorem quietRefreshKeepsTheFrame : Obligations.QuietRefreshKeepsTheFrame := by
  intro ts s t quiet taken chunk frame
  rw [runTurns_eq] at taken
  obtain rfl := Host.Outcome.next.inj taken
  let Reads : ByteSource → List Byte → Prop := fun src bytes => bytes = src.resolve s.fb
  have quietAt : ∀ n u, ts[n]? = some u → (afterTurns (ts.take n) s).guard = true ∧ u.isReset = false ∧
      u.keepsFrameQuiet (afterTurns (ts.take n) s) := fun n u here => quiet n _ u here (runTurns_eq _ s)
  have sameFb : ∀ n u, ts[n]? = some u → (afterTurns (ts.take n) s).fb = s.fb →
      (afterTurn (afterTurns (ts.take n) s) u).fb = s.fb := fun n u here same => by
    obtain ⟨guard, notReset, quiet⟩ := quietAt n u here
    exact (afterTurn_fb_of_quiet guard notReset quiet).trans same
  refine ⟨afterTurns_keeps (Inv := fun v => v.fb = s.fb) rfl sameFb, fun accepted => ?_⟩
  obtain ⟨events, trace⟩ : s.trace <+: (afterTurns ts s).trace :=
    afterTurns_keeps (Inv := fun v => s.trace <+: v.trace) List.prefix_rfl fun n u here grows =>
      grows.trans (afterTurn_trace_prefix (quietAt n u here).2.1)
  have sentEvents {sent : List (List Byte)} (transfers : (afterTurns ts s).transfers = s.transfers ++ sent) :
      events.filterMap Event.transfer = sent := by
    rw [State.transfers, ← trace, List.filterMap_append] at transfers
    exact List.append_cancel_left transfers
  obtain ⟨-, course⟩ : (afterTurns ts s).fb = s.fb ∧
      ((afterTurns ts s).Refreshing Reads s.transfers ∨ (afterTurns ts s).Refreshed Reads s.transfers) := by
    refine afterTurns_keeps
      (Inv := fun v => v.fb = s.fb ∧ (v.Refreshing Reads s.transfers ∨ v.Refreshed Reads s.transfers))
      ⟨rfl, .inl (State.refreshing_of_accepted accepted)⟩ fun n u here ⟨same, course⟩ => ⟨sameFb n u here same, ?_⟩
    obtain ⟨guard, notReset, -⟩ := quietAt n u here
    rcases course with refreshing | ⟨-, fallen, -⟩
    · exact refreshing.turn (fun src => by rw [same]) notReset
    · exact absurd guard (ne_true_of_eq_false fallen)
  have isFrame : frame = FramerCmd.refresh.sources.map fun src => src.resolve s.fb :=
    (map_resolve_sources_refresh s.fb).symm
  refine ⟨events, trace.symm, ?_⟩
  rcases course with ⟨job, sent, running, isRefresh, transfers, issued⟩ |
    ⟨-, -, srcs, sent, transfers, issued, part, complete⟩
  · rw [sentEvents transfers, eq_map_of_forall₂_resolve issued, isFrame]
    refine ⟨(isRefresh ▸ job.issued_prefix).map _, fun ended => ?_⟩
    simp [running] at ended
  · rw [sentEvents transfers, eq_map_of_forall₂_resolve issued, isFrame]
    refine ⟨part.map _, fun _ noError => ?_⟩
    rw [noError] at complete
    rw [complete.resolve_left Bool.false_ne_true]

/-! ### Frames on an open bus -/

/-- The pin at a level: driven while its enable is set (R43). -/
def Pin.at (driven level : Bool) : Pin := if driven then Pin.ofLevel level else .released

/-- The micro-operations a frame consists of. -/
def MicroOp.InFrame (op : MicroOp) : Prop :=
  match op with
  | .dc _ | .xfer _ => True
  | .openBus _ | .closeBus | .done => False

/-- The level that DC has after the micro-operations of a frame. -/
def frameLevel (level : Bool) (ops : List MicroOp) : Bool :=
  match ops with
  | [] => level
  | .dc v :: ops => frameLevel v ops
  | .xfer _ :: ops | .openBus _ :: ops | .closeBus :: ops | .done :: ops => frameLevel level ops

/-- The events of the micro-operations of a frame on an open bus, each request answered ok, from a level of DC on. -/
def frameEvents (driven : Bool) (fb : Memory) (level : Bool) (ops : List MicroOp) : List Event :=
  match ops with
  | [] => []
  | .dc v :: ops => (if driven && v != level then [.dc (Pin.ofLevel v)] else []) ++ frameEvents driven fb v ops
  | .xfer src :: ops => [.xfer (Pin.at driven level) (src.resolve fb), .ans .ok] ++ frameEvents driven fb level ops
  | .openBus _ :: ops | .closeBus :: ops | .done :: ops => frameEvents driven fb level ops

/-- R202: a new level shows at the pin if it is driven and the level changed. -/
theorem pinEvents_dcLevel (s : State) (v : Bool) :
    pinEvents { s with dcLevel := v } s = if s.ctrl.dcOe && v != s.dcLevel then [.dc (Pin.ofLevel v)] else [] := by
  have rst : State.rstPin { s with dcLevel := v } = s.rstPin := rfl
  rw [pinEvents, if_pos rst]
  cases oe : s.ctrl.dcOe <;> cases level : s.dcLevel <;> cases v <;>
    simp [State.dcPin, Pin.ofLevel, oe, level]

section
variable {s : State} {job : FramerJob} {op : MicroOp} (ready : Ready s job op)
include ready

theorem answeredRound_dc {v : Bool} (isDc : op = .dc v) (o : Answer) :
    answeredRound o s =
      { s with
        framerJob := some job.next
        dcLevel := v
        trace := s.trace ++ if s.ctrl.dcOe && v != s.dcLevel then [.dc (Pin.ofLevel v)] else [] } := by
  subst isDc
  rw [answeredRound_of_quiet ready (microStep_dc job v s) rfl, pinEvents_dcLevel]

theorem answeredRound_xfer {src : ByteSource} (isXfer : op = .xfer src) (isOpen : s.busOpen = true) :
    answeredRound .ok s =
      { s with
        framerJob := some job.next
        trace := s.trace ++ [.xfer (Pin.at s.ctrl.dcOe s.dcLevel) (src.resolve s.fb), .ans .ok] } := by
  subst isXfer
  rw [answeredRound_ok ready (microStep_xfer_of_open isOpen job src) rfl, List.append_assoc]
  rfl

/-- R210: the round of DONE. -/
theorem answeredRound_done (isDone : op = .done) (o : Answer) :
    answeredRound o s =
      { s with
        framerJob := none
        guard := if job.cmd = .refresh then false else s.guard
        sticky := s.sticky ||| if job.cmd = .refresh then 0x006#10 else 0x002#10 } := by
  subst isDone
  rw [← framerComplete_eq_bits]
  exact answeredRound_of_quiet ready (t := framerComplete job.cmd s) rfl (by rw [framerComplete_eq]; rfl) o

end

/-- R206, R207: on an open bus, with every request answered ok, a command that consists of frames ends after one round
for each micro-operation. -/
theorem afterTurns_frames (ops : List MicroOp) :
    ∀ {s : State} {job : FramerJob}, s.framerJob = some job → job.pending = none → s.busOpen = true →
      job.cmd.microOps.drop job.m = ops ++ [.done] → (∀ op ∈ ops, op.InFrame) →
        afterTurns (answeredRounds (List.replicate (ops.length + 1) .ok)) s =
          { s with
            framerJob := none
            guard := if job.cmd = .refresh then false else s.guard
            sticky := s.sticky ||| if job.cmd = .refresh then 0x006#10 else 0x002#10
            dcLevel := frameLevel s.dcLevel ops
            trace := s.trace ++ frameEvents s.ctrl.dcOe s.fb s.dcLevel ops } := by
  have current {job : FramerJob} {op : MicroOp} {rest : List MicroOp}
      (left : job.cmd.microOps.drop job.m = op :: rest) : job.cmd.microOps[job.m]? = some op := by
    rw [← List.head?_drop, left]
    rfl
  induction ops with
  | nil =>
    intro s job running idle _ left _
    rw [List.replicate_succ, afterTurns_answeredRounds_cons,
      answeredRound_done ⟨running, idle, current left⟩ rfl .ok, frameEvents, List.append_nil]
    rfl
  | cons op ops ih =>
    intro s job running idle isOpen left inFrame
    obtain ⟨first, others⟩ := List.forall_mem_cons.mp inFrame
    have ready : Ready s job op := ⟨running, idle, current left⟩
    have leftNext : job.next.cmd.microOps.drop job.next.m = ops ++ [.done] := by
      show job.cmd.microOps.drop (job.m + 1) = _
      rw [← List.drop_drop, left]
      rfl
    rw [List.length_cons, List.replicate_succ, afterTurns_answeredRounds_cons]
    cases op with
    | dc v =>
      rw [answeredRound_dc ready rfl .ok]
      refine (ih (job := job.next) ?_ rfl ?_ leftNext others).trans ?_
      · rfl
      · exact isOpen
      · simp only [frameEvents, List.append_assoc]
        rfl
    | xfer src =>
      rw [answeredRound_xfer ready rfl isOpen]
      refine (ih (job := job.next) ?_ rfl ?_ leftNext others).trans ?_
      · rfl
      · exact isOpen
      · simp only [frameEvents, List.append_assoc]
        rfl
    | openBus | closeBus | done => cases first

/-! The events of one frame -/

theorem frameEvents_xfers (driven : Bool) (fb : Memory) (level : Bool) (srcs : List ByteSource) (rest : List MicroOp) :
    frameEvents driven fb level (srcs.map MicroOp.xfer ++ rest) =
      (srcs.flatMap fun src => [Event.xfer (Pin.at driven level) (src.resolve fb), Event.ans .ok]) ++
        frameEvents driven fb level rest := by
  induction srcs with
  | nil => rfl
  | cons src srcs ih => simp [frameEvents, ih]

theorem frameLevel_xfers (level : Bool) (srcs : List ByteSource) (rest : List MicroOp) :
    frameLevel level (srcs.map MicroOp.xfer ++ rest) = frameLevel level rest := by
  induction srcs with
  | nil => rfl
  | cons src srcs ih => exact ih

/-- The events of the opcode half of a frame. -/
def opcodeEvents (driven level : Bool) (op : Byte) : List Event :=
  (if driven && level then [Event.dc .low] else []) ++ [Event.xfer (Pin.at driven false) [op], Event.ans .ok] ++
    if driven then [Event.dc .high] else []

theorem frameEvents_opcode (driven : Bool) (fb : Memory) (level : Bool) (op : Byte) (rest : List MicroOp) :
    frameEvents driven fb level (frameOpcode op ++ rest) =
      opcodeEvents driven level op ++ frameEvents driven fb true rest := by
  cases driven <;> cases level <;> rfl

/-- R207: a payload of at most CHUNK_MAX bytes is one chunk, and none if it is empty. -/
theorem payloadChunks_of_short {p : List Byte} (short : p.length ≤ Config.chunkMax) :
    payloadChunks p = if p = [] then [] else [p] := by
  simp only [Config.chunkMax] at short
  unfold payloadChunks
  by_cases empty : p = []
  · subst empty
    rfl
  · have positive := List.length_pos_iff.mpr empty
    have one : (p.length + (Config.chunkMax - 1)) / Config.chunkMax = 1 := by
      simp only [Config.chunkMax]
      omega
    rw [one, if_neg empty]
    simpa using List.take_of_length_le short

/-- The transfers of a short payload. -/
def payloadOps (p : List Byte) : List MicroOp := if p = [] then [] else [.xfer (.bytes p)]

theorem frameBytes_of_short (op : Byte) {p : List Byte} (short : p.length ≤ Config.chunkMax) :
    frameBytes op p = frameOpcode op ++ payloadOps p := by
  rw [frameBytes, payloadChunks_of_short short, payloadOps]
  split <;> rfl

/-- The events of one frame with a short payload. -/
def shortFrameEvents (driven level : Bool) (op : Byte) (p : List Byte) : List Event :=
  opcodeEvents driven level op ++ if p = [] then [] else [Event.xfer (Pin.at driven true) p, Event.ans .ok]

theorem frameEvents_payloadOps (driven : Bool) (fb : Memory) (p : List Byte) :
    frameEvents driven fb true (payloadOps p) = if p = [] then [] else [.xfer (Pin.at driven true) p, .ans .ok] := by
  unfold payloadOps
  split <;> rfl

/-- R211: a command that is one frame with a short payload, from its acceptance on an open bus; a round left over
changes nothing. -/
theorem runTurns_shortFrame {s : State} {cmd : FramerCmd} {op : Byte} {p : List Byte}
    (accepted : s.framerJob = some { cmd := cmd, m := 0, pending := none }) (isOpen : s.busOpen = true)
    (short : p.length ≤ Config.chunkMax) (list : cmd.microOps = frameBytes op p ++ [.done])
    (notRefresh : cmd ≠ .refresh) :
    runTurns (answeredRounds (List.replicate 5 .ok)) s =
      .next { s with
        framerJob := none
        sticky := s.sticky ||| 0x002#10
        dcLevel := true
        trace := s.trace ++ shortFrameEvents s.ctrl.dcOe s.dcLevel op p } := by
  rw [frameBytes_of_short op short] at list
  have inFrame : ∀ u ∈ frameOpcode op ++ payloadOps p, u.InFrame := by
    unfold frameOpcode payloadOps
    split <;> simp [MicroOp.InFrame]
  have events : frameEvents s.ctrl.dcOe s.fb s.dcLevel (frameOpcode op ++ payloadOps p) =
      shortFrameEvents s.ctrl.dcOe s.dcLevel op p := by
    rw [frameEvents_opcode, frameEvents_payloadOps, shortFrameEvents]
  have level : frameLevel s.dcLevel (frameOpcode op ++ payloadOps p) = true := by
    unfold payloadOps
    split <;> rfl
  have ended := afterTurns_frames _ accepted rfl isOpen list inFrame
  rw [events, level, if_neg notRefresh, if_neg notRefresh] at ended
  have rounds : (frameOpcode op ++ payloadOps p).length + 1 ≤ 5 := by
    unfold payloadOps
    split <;> simp [frameOpcode]
  have leftOver : answeredRounds (List.replicate 5 .ok) =
      answeredRounds (List.replicate ((frameOpcode op ++ payloadOps p).length + 1) .ok) ++
        answeredRounds (List.replicate (5 - ((frameOpcode op ++ payloadOps p).length + 1)) .ok) := by
    rw [answeredRounds, answeredRounds, answeredRounds, ← List.flatMap_append, ← List.replicate_add,
      Nat.add_sub_cancel' rounds]
  rw [runTurns_eq, leftOver, afterTurns_append, ended, afterTurns_answeredRounds_of_idle rfl]

/-- Settles O38: one short frame (`runTurns_shortFrame`). -/
theorem sendcmdSendsOneFrame : Obligations.SendcmdSendsOneFrame := by
  intro s op payload accepted short isOpen dcLow dcHigh
  have fits : payload.length ≤ Config.chunkMax := short.trans (by decide)
  rw [runTurns_shortFrame accepted isOpen fits rfl (by simp), shortFrameEvents, opcodeEvents]
  simp only [List.append_assoc]
  rfl

/-- R217: the clamp, with its bounds and the byte of a v between them written out. -/
theorem clampContrast_eq (v : Int) :
    clampContrast v = if v < 0 then 0#8 else if 255 < v then 255#8 else BitVec.ofNat 8 v.toNat := by
  unfold clampContrast
  by_cases low : v < 0
  · rw [if_pos low, if_pos low]
    rfl
  · rw [if_neg low, if_neg low]
    by_cases high : 255 < v
    · rw [if_pos high, if_pos high]
      rfl
    · rw [if_neg high, if_neg high]
      have natural : v = (v.toNat : Int) := (Int.toNat_of_nonneg (not_lt.mp low)).symm
      rw [natural, BitVec.ofInt_natCast, Int.toNat_natCast]

/-- Settles O39: each is one short frame (`runTurns_shortFrame`), CONTRAST's of the clamped value
(`clampContrast_eq`). -/
theorem contrastAndVscrollSendTheirFrames : Obligations.ContrastAndVscrollSendTheirFrames := by
  intro s isOpen dcLow dcHigh framed
  have sends {cmd : FramerCmd} {op b : Byte} {more : List Byte}
      (accepted : s.framerJob = some { cmd := cmd, m := 0, pending := none }) (short : more.length ≤ 2)
      (list : cmd.microOps = frameBytes op (b :: more) ++ [.done]) (notRefresh : cmd ≠ .refresh) :
      runTurns (answeredRounds (List.replicate 5 .ok)) s = framed op (b :: more) := by
    have fits : (b :: more).length ≤ Config.chunkMax := by
      simp only [List.length_cons, Config.chunkMax]
      omega
    rw [runTurns_shortFrame accepted isOpen fits list notRefresh, shortFrameEvents, opcodeEvents]
    simp only [List.append_assoc, framed]
    rfl
  constructor
  · intro v accepted b
    rw [show b = clampContrast v from (clampContrast_eq v).symm]
    exact sends accepted (Nat.le_refl 2) rfl (by simp)
  · intro row accepted
    exact sends accepted (Nat.zero_le 2) rfl (by simp)

/-! ### REFRESH on an open bus -/

/-- R213: the micro-operations of a REFRESH before DONE: three opcode halves, the first two with their payload, the
third with the eight chunks. -/
def refreshOps : List MicroOp :=
  frameOpcode 0x15#8 ++ ([ByteSource.bytes [0x00#8, 0x7F#8]].map MicroOp.xfer ++
    (frameOpcode 0x75#8 ++ ([ByteSource.bytes [0x00#8, 0x7F#8]].map MicroOp.xfer ++
      (frameOpcode 0x5C#8 ++ (((List.range 8).map ByteSource.fbChunk).map MicroOp.xfer ++ [])))))

/-- Settles O42: nineteen micro-operations of three frames and DONE (`afterTurns_frames`), their events read off frame
by frame. -/
theorem refreshSendsThirteenTransfers : Obligations.RefreshSendsThirteenTransfers := by
  intro s accepted isOpen dcLow dcHigh falls rises chunk events
  have inFrame : ∀ u ∈ refreshOps, u.InFrame := by
    simp [refreshOps, frameOpcode, MicroOp.InFrame]
  have ended := afterTurns_frames refreshOps accepted rfl isOpen rfl inFrame
  have emitted : frameEvents s.ctrl.dcOe s.fb s.dcLevel refreshOps = events := by
    simp only [events, falls, rises, dcLow, dcHigh, refreshOps, frameEvents_opcode, frameEvents_xfers, opcodeEvents]
    cases s.ctrl.dcOe <;> cases s.dcLevel <;> rfl
  constructor
  · rw [runTurns_eq, ← emitted]
    exact congrArg _ ended
  · rw [transferCount_eq_length, ← emitted]
    cases s.ctrl.dcOe <;> cases s.dcLevel <;> rfl

/-! ### Opening and closing the bus -/

/-- The rounds of a command whose first round leaves DONE. -/
theorem runTurns_thenDone {s t : State} {cmd : FramerCmd} {o : Answer} (first : answeredRound o s = t)
    (runs : t.framerJob = some { cmd := cmd, m := 1, pending := none }) (last : cmd.microOps[1]? = some .done)
    (notRefresh : cmd ≠ .refresh) :
    runTurns (answeredRounds [o, o]) s = .next { t with framerJob := none, sticky := t.sticky ||| 0x002#10 } := by
  have done := answeredRound_done ⟨runs, rfl, last⟩ rfl o
  rw [if_neg notRefresh, if_neg notRefresh] at done
  rw [runTurns_eq, afterTurns_answeredRounds_cons, first]
  exact congrArg _ done

/-- The round of a command whose request fails. -/
theorem runTurns_failed {s t : State} (first : answeredRound .fail s = framerAbort t) :
    runTurns (answeredRounds [.fail]) s =
      .next { t with framerJob := none, guard := false, sticky := t.sticky ||| 0x012#10 } := by
  rw [runTurns_eq, afterTurns_answeredRounds_cons, first, framerAbort_eq_bits]
  rfl

/-- Settles O40: the first round passes, or opens the bus (`answeredRound_ok`), or aborts (`answeredRound_fail`). -/
theorem busOpenOpensTheBus : Obligations.BusOpenOpensTheBus := by
  intro s clk accepted
  have ready : Ready s _ (.openBus clk) := ⟨accepted, rfl, rfl⟩
  refine ⟨fun isOpen o => ?_, fun closed => ?_⟩
  · have passed := answeredRound_of_quiet ready (microStep_openBus_of_open isOpen _ clk) rfl o
    have ended := runTurns_thenDone passed rfl rfl (by simp)
    exact ended
  · have taken := microStep_openBus_of_closed closed { cmd := .busOpen clk, m := 0, pending := none } clk
    refine ⟨(runTurns_thenDone (answeredRound_ok ready taken rfl) rfl rfl (by simp)).trans ?_,
      (runTurns_failed (answeredRound_fail ready taken rfl)).trans ?_⟩
    · simp only [if_true, List.append_assoc]
      rfl
    · simp only [State.emit, List.append_assoc]
      rfl

/-- Settles O41: the first round passes, or closes the bus at the request, whatever the answer. -/
theorem busCloseClosesTheBus : Obligations.BusCloseClosesTheBus := by
  intro s accepted
  have ready : Ready s _ .closeBus := ⟨accepted, rfl, rfl⟩
  refine ⟨fun closed o => ?_, fun isOpen => ?_⟩
  · have passed := answeredRound_of_quiet ready (microStep_closeBus_of_closed closed _) rfl o
    have ended := runTurns_thenDone passed rfl rfl (by simp)
    exact ended
  · have taken := microStep_closeBus_of_open isOpen { cmd := .busClose, m := 0, pending := none }
    refine ⟨(runTurns_thenDone (answeredRound_ok ready taken rfl) rfl rfl (by simp)).trans ?_,
      (runTurns_failed (answeredRound_fail ready taken rfl)).trans ?_⟩
    · simp only [reduceCtorEq, if_false, List.append_assoc]
      rfl
    · simp only [State.emit, List.append_assoc]
      rfl

/-! ## The point lists -/

/-! ### Straight lines -/

theorem lineLength_horizontal (a0 a1 b : Int) : lineLength a0 b a1 b = (a1 - a0).natAbs := by
  simp [lineLength]

theorem lineLength_vertical (a b0 b1 : Int) : lineLength a b0 a b1 = (b1 - b0).natAbs := by
  simp [lineLength]

theorem length_linePoints (x0 y0 x1 y1 : Int) : (linePoints x0 y0 x1 y1).length = lineLength x0 y0 x1 y1 + 1 := by
  rw [linePoints_eq_iterate, List.length_map, List.length_iterate]

theorem lineDelta_self (a : Int) : lineDelta a a = 0 := by simp [lineDelta]

/-- Each step along a side of height 0 moves one coordinate alone. -/
theorem iterate_lineStep_flat {dx : Int} (nonneg : 0 ≤ dx) (x0 y0 sx : Int) {i : Nat} (inside : i ≤ dx) :
    ((lineStep dx 0 sx 0)^[i] ⟨x0, y0, dx⟩).point = ⟨x0 + i * sx, y0⟩ := by
  obtain ⟨b, e, state, -⟩ := iterate_lineStep_alongX le_rfl nonneg x0 y0 sx 0 i inside
  rw [state, LineState.point, mul_zero, add_zero]

/-- A list of the points of a loop's states, point by point. -/
theorem map_point_iterate {step : LineState → LineState} {t : LineState} {n : Nat} {f : Nat → Point}
    (points : ∀ i < n, (step^[i] t).point = f i) :
    (List.iterate step t n).map LineState.point = (List.range n).map f := by
  refine List.ext_getElem (by simp) fun i inside _ => ?_
  simp only [List.length_map, List.length_iterate] at inside
  simpa using points i inside

/-- R158: a horizontal line, in its direction. -/
theorem linePoints_horizontal (a0 a1 b : Int) :
    linePoints a0 b a1 b =
      (List.range ((a1 - a0).natAbs + 1)).map fun i : Nat => ⟨a0 + i * (a1 - a0).sign, b⟩ := by
  have start : lineStart a0 b a1 b = ⟨a0, b, lineDelta a0 a1⟩ := by
    have nonneg : 0 ≤ lineDelta a0 a1 := Int.natCast_nonneg _
    simp only [lineStart, lineDelta_self, LineState.mk.injEq, true_and]
    split <;> omega
  rw [linePoints_eq_iterate, lineLength_horizontal, lineDelta_self, sub_self, Int.sign_zero, start]
  refine map_point_iterate fun i inside => ?_
  exact iterate_lineStep_flat (Int.natCast_nonneg _) a0 b _ (Int.ofNat_le.mpr (Nat.le_of_lt_succ inside))

/-- R158: a vertical line, in its direction: the mirror image of a horizontal one. -/
theorem linePoints_vertical (a b0 b1 : Int) :
    linePoints a b0 a b1 =
      (List.range ((b1 - b0).natAbs + 1)).map fun i : Nat => ⟨a, b0 + i * (b1 - b0).sign⟩ := by
  have start : lineStart a b0 a b1 = LineState.swap ⟨b0, a, lineDelta b0 b1⟩ := by
    have notWide : ¬ (0 > lineDelta b0 b1) := not_lt.mpr (Int.natCast_nonneg _)
    simp only [lineStart, lineDelta_self, LineState.swap, if_neg notWide]
  rw [linePoints_eq_iterate, lineLength_vertical, lineDelta_self, sub_self, Int.sign_zero, start]
  refine map_point_iterate fun i inside => ?_
  have flat := iterate_lineStep_flat (dx := lineDelta b0 b1) (Int.natCast_nonneg _) b0 a (b1 - b0).sign
    (Int.ofNat_le.mpr (Nat.le_of_lt_succ inside))
  rw [← (lineStep_swap (lineDelta b0 b1) 0 (b1 - b0).sign 0).iterate_right i, LineState.point_swap, flat]
  rfl

/-- The run from a0 to a1, as a range of numbers. -/
theorem exists_run_iff (a0 a1 x : Int) :
    (∃ i < (a1 - a0).natAbs + 1, a0 + (i : Int) * (a1 - a0).sign = x) ↔ min a0 a1 ≤ x ∧ x ≤ max a0 a1 := by
  rcases lt_trichotomy a0 a1 with up | rfl | down
  · rw [Int.sign_eq_one_of_pos (by omega)]
    exact ⟨fun ⟨i, inside, at_x⟩ => by omega, fun between => ⟨(x - a0).toNat, by omega, by omega⟩⟩
  · rw [sub_self, Int.sign_zero]
    exact ⟨fun ⟨i, _, at_x⟩ => by omega, fun between => ⟨0, by omega, by omega⟩⟩
  · rw [Int.sign_eq_neg_one_of_neg (by omega)]
    exact ⟨fun ⟨i, inside, at_x⟩ => by omega, fun between => ⟨(a0 - x).toNat, by omega, by omega⟩⟩

theorem mem_linePoints_horizontal {a0 a1 b : Int} {p : Point} :
    p ∈ linePoints a0 b a1 b ↔ (min a0 a1 ≤ p.x ∧ p.x ≤ max a0 a1) ∧ p.y = b := by
  obtain ⟨x, y⟩ := p
  rw [linePoints_horizontal, ← exists_run_iff]
  simp only [List.mem_map, List.mem_range, Point.mk.injEq]
  constructor
  · rintro ⟨i, inside, at_x, rfl⟩
    exact ⟨⟨i, inside, at_x⟩, rfl⟩
  · rintro ⟨⟨i, inside, at_x⟩, rfl⟩
    exact ⟨i, inside, at_x, rfl⟩

theorem mem_linePoints_vertical {a b0 b1 : Int} {p : Point} :
    p ∈ linePoints a b0 a b1 ↔ p.x = a ∧ min b0 b1 ≤ p.y ∧ p.y ≤ max b0 b1 := by
  obtain ⟨x, y⟩ := p
  rw [linePoints_vertical, ← exists_run_iff]
  simp only [List.mem_map, List.mem_range, Point.mk.injEq]
  constructor
  · rintro ⟨i, inside, rfl, at_y⟩
    exact ⟨rfl, i, inside, at_y⟩
  · rintro ⟨rfl, i, inside, at_y⟩
    exact ⟨i, inside, rfl, at_y⟩

/-- The run of n + 1 numbers up from a, or down from a. -/
theorem run_add (a : Int) (n : Nat) : (a + n - a).natAbs = n ∧ ∀ i < n + 1, (i : Int) * (a + n - a).sign = i := by
  refine ⟨by omega, fun i inside => ?_⟩
  rcases n.eq_zero_or_pos with rfl | positive
  · obtain rfl : i = 0 := by omega
    simp
  · rw [Int.sign_eq_one_of_pos (by omega), mul_one]

theorem run_sub (a : Int) (n : Nat) : (a - n - a).natAbs = n ∧ ∀ i < n + 1, (i : Int) * (a - n - a).sign = -i := by
  refine ⟨by omega, fun i inside => ?_⟩
  rcases n.eq_zero_or_pos with rfl | positive
  · obtain rfl : i = 0 := by omega
    simp
  · rw [Int.sign_eq_neg_one_of_neg (by omega), mul_neg_one]

/-- Settles O30: `linePoints_horizontal` and `linePoints_vertical`, in both directions. -/
theorem straightLinesAreRuns : Obligations.StraightLinesAreRuns := by
  intro a b n
  refine ⟨?right, ?left, ?down, ?up⟩
  case right =>
    obtain ⟨length, direction⟩ := run_add a n
    rw [linePoints_horizontal, length]
    exact List.map_congr_left fun i inside => by rw [direction i (List.mem_range.mp inside)]
  case left =>
    obtain ⟨length, direction⟩ := run_sub a n
    rw [linePoints_horizontal, length]
    exact List.map_congr_left fun i inside => by rw [direction i (List.mem_range.mp inside), sub_eq_add_neg]
  case down =>
    obtain ⟨length, direction⟩ := run_add b n
    rw [linePoints_vertical, length]
    exact List.map_congr_left fun i inside => by rw [direction i (List.mem_range.mp inside)]
  case up =>
    obtain ⟨length, direction⟩ := run_sub b n
    rw [linePoints_vertical, length]
    exact List.map_congr_left fun i inside => by rw [direction i (List.mem_range.mp inside), sub_eq_add_neg]

/-! ### Rectangles -/

/-- Settles O31: the four sides are straight lines; their points are the border (`mem_linePoints_horizontal`,
`mem_linePoints_vertical`). -/
theorem rectOutlinesItsBorder : Obligations.RectOutlinesItsBorder := by
  intro x0 y0 w h x1 y1
  have length : ((rectPoints x0 y0 w h).length : Int) = 2 * (|w - 1| + 1) + 2 * (|h - 1| + 1) := by
    simp only [rectPoints, List.length_append, length_linePoints, lineLength_horizontal, lineLength_vertical,
      Int.abs_eq_natAbs]
    omega
  refine ⟨length, fun wide high => ?_, fun p => ?_⟩
  · rw [length, abs_of_nonneg (by omega), abs_of_nonneg (by omega)]
    ring
  simp only [rectPoints, List.mem_append, mem_linePoints_horizontal, mem_linePoints_vertical]
  omega

/-- Rows of width w, one below the other, numbered through. -/
theorem flatMap_rows {α : Type} (f : Nat → Nat → α) (w h : Nat) :
    ((List.range h).flatMap fun j => (List.range w).map fun i => f i j) =
      (List.range (h * w)).map fun n => f (n % w) (n / w) := by
  induction h with
  | zero => simp
  | succ h ih =>
    rw [List.range_succ, List.flatMap_append, ih, Nat.succ_mul, List.range_add, List.map_append, List.flatMap_singleton,
      List.map_map]
    congr 1
    refine List.map_congr_left fun i inside => ?_
    rw [List.mem_range] at inside
    have positive : 0 < w := by omega
    rw [Function.comp_apply, Nat.mul_comm h w, Nat.mul_add_mod, Nat.mod_eq_of_lt inside, Nat.mul_add_div positive,
      Nat.div_eq_of_lt inside, Nat.add_zero]

/-- R161: the points of FILLRECT, numbered through. -/
theorem fillRectPoints_eq (x0 y0 w h : Int) :
    fillRectPoints x0 y0 w h =
      (List.range (h.toNat * w.toNat)).map fun n =>
        ⟨x0 + (n % w.toNat : Nat), y0 + (n / w.toNat : Nat)⟩ := by
  -- The model's ranges are coerced to lists of integers.
  simp only [fillRectPoints, bind_pure_comp, List.map_eq_map, List.flatMap_map, List.map_map]
  exact flatMap_rows (fun i j => (⟨x0 + (i : Int), y0 + (j : Int)⟩ : Point)) w.toNat h.toNat

/-- Settles O32: point n is in column n mod w of row n / w (`fillRectPoints_eq`). -/
theorem fillRectVisitsRowsInOrder : Obligations.FillRectVisitsRowsInOrder := by
  intro x0 y0 w h
  rw [fillRectPoints_eq]
  refine ⟨by simp [Nat.mul_comm], fun i j column row => ?_, List.nodup_range.map fun m n same => ?_⟩
  · have inside : j * w.toNat + i < h.toNat * w.toNat :=
      calc
        j * w.toNat + i < j * w.toNat + w.toNat := Nat.add_lt_add_left column _
        _ = (j + 1) * w.toNat := (Nat.succ_mul ..).symm
        _ ≤ h.toNat * w.toNat := Nat.mul_le_mul_right _ row
    have positive : 0 < w.toNat := by omega
    rw [List.getElem?_map, List.getElem?_range inside, Option.map_some, Nat.mul_comm j, Nat.mul_add_mod,
      Nat.mod_eq_of_lt column, Nat.mul_add_div positive, Nat.div_eq_of_lt column, Nat.add_zero]
  · simp only [Point.mk.injEq] at same
    rw [← Nat.div_add_mod m w.toNat, ← Nat.div_add_mod n w.toNat, show m / w.toNat = n / w.toNat by omega,
      show m % w.toNat = n % w.toNat by omega]

/-! ### Circles -/

/-- The point a state of the circle loop emits (R162). -/
def CircleState.point (t : CircleState) : Point := ⟨t.x, t.y⟩

theorem circleStep_y (t : CircleState) : (circleStep t).y = t.y + 1 := by
  unfold circleStep
  split <;> rfl

theorem circleStep_x_le (t : CircleState) : (circleStep t).x ≤ t.x := by
  unfold circleStep
  split
  · exact Int.sub_le_self _ (by decide)
  · exact le_rfl

/-- R162: the loop's states have y = i, and x at most the radius. -/
theorem iterate_circleStep_bounds (r : Int) (i : Nat) :
    (circleStep^[i] (circleStart r)).y = i ∧ (circleStep^[i] (circleStart r)).x ≤ r := by
  induction i with
  | zero => exact ⟨rfl, le_rfl⟩
  | succ i ih =>
    obtain ⟨y, x⟩ := ih
    rw [Function.iterate_succ_apply', circleStep_y, y]
    exact ⟨(Nat.cast_succ i).symm, (circleStep_x_le _).trans x⟩

/-- R162: the loop emits the iterates of its step while y ≤ x, and stops by that test if the fuel lasts. -/
theorem circleLoop_spec (fuel : Nat) : ∀ t : CircleState,
    (circleLoop fuel t).length ≤ fuel ∧
      (∀ i q, (circleLoop fuel t)[i]? = some q → q = (circleStep^[i] t).point ∧ q.y ≤ q.x) ∧
      ((circleLoop fuel t).length < fuel →
        (circleStep^[(circleLoop fuel t).length] t).x < (circleStep^[(circleLoop fuel t).length] t).y) := by
  induction fuel with
  | zero => intro t; simp [circleLoop]
  | succ fuel ih =>
    intro t
    unfold circleLoop
    split
    case isTrue goesOn =>
      obtain ⟨length, points, ends⟩ := ih (circleStep t)
      refine ⟨Nat.succ_le_succ length, fun i q at_i => ?_, fun lasts => ends (Nat.lt_of_succ_lt_succ lasts)⟩
      cases i with
      | zero =>
        obtain rfl := Option.some.inj at_i
        exact ⟨rfl, goesOn⟩
      | succ i => exact points i q at_i
    case isFalse stops =>
      exact ⟨Nat.zero_le _, by simp, fun _ => not_le.mp stops⟩

theorem circleSteps_of_neg {r : Int} (negative : r < 0) : circleSteps r = [] :=
  if_neg (not_le.mpr negative)

theorem getElem?_circleSteps {r : Int} {i : Nat} {q : Point} (at_i : (circleSteps r)[i]? = some q) :
    q.y = i ∧ 0 ≤ q.y ∧ q.y ≤ q.x ∧ q.x ≤ r := by
  obtain ⟨rfl, octant⟩ := (circleLoop_spec _ _).2.1 i q at_i
  obtain ⟨y, x⟩ := iterate_circleStep_bounds r i
  exact ⟨y, y.symm.subst (motive := (0 ≤ ·)) (Int.natCast_nonneg i), octant, x⟩

/-- Settles O33: the loop's states are iterates (`circleLoop_spec`) with y = i and x ≤ r (`iterate_circleStep_bounds`),
so that r + 1 iterations leave x < y. -/
theorem circleStepsStayInTheOctant : Obligations.CircleStepsStayInTheOctant := by
  refine fun r => ⟨circleSteps_of_neg, fun nonneg => ?_⟩
  obtain ⟨length, -, ends⟩ := circleLoop_spec (r.toNat + 1) (circleStart r)
  refine ⟨?first, ?bound, fun i q => getElem?_circleSteps, ?stops⟩
  case first =>
    show (circleLoop (r.toNat + 1) (circleStart r)).head? = _
    rw [circleLoop, if_pos (show (circleStart r).x ≥ (circleStart r).y from nonneg)]
    rfl
  case bound =>
    show ((circleLoop (r.toNat + 1) (circleStart r)).length : Int) ≤ r + 1
    omega
  case stops =>
    rcases length.lt_or_eq with lasts | used
    · exact ends lasts
    · obtain ⟨y, x⟩ := iterate_circleStep_bounds r (circleSteps r).length
      have last : (circleSteps r).length = r.toNat + 1 := used
      show _ < _
      rw [y]
      omega

/-- R163: the eight images of a step q: both signs of each offset from the centre, and the offsets exchanged. -/
theorem mem_octantPoints {xc yc : Int} {q p : Point} :
    p ∈ octantPoints xc yc q ↔
      ((p.x = xc + q.x ∨ p.x = xc - q.x) ∧ (p.y = yc + q.y ∨ p.y = yc - q.y)) ∨
        ((p.x = xc + q.y ∨ p.x = xc - q.y) ∧ (p.y = yc + q.x ∨ p.y = yc - q.x)) := by
  obtain ⟨x, y⟩ := p
  simp only [octantPoints, List.mem_cons, List.not_mem_nil, or_false, Point.mk.injEq, and_or_left, or_and_right,
    or_assoc]

/-- Settles O34: each step's eight points are symmetric (`mem_octantPoints`). -/
theorem circlePointsAreSymmetric : Obligations.CirclePointsAreSymmetric := by
  intro xc yc r p plotted
  obtain ⟨q, step, image⟩ := List.mem_flatMap.mp plotted
  rw [mem_octantPoints] at image
  have plots {x y : Int}
      (image : ((x = xc + q.x ∨ x = xc - q.x) ∧ (y = yc + q.y ∨ y = yc - q.y)) ∨
        ((x = xc + q.y ∨ x = xc - q.y) ∧ (y = yc + q.x ∨ y = yc - q.x))) : (⟨x, y⟩ : Point) ∈ circlePoints xc yc r :=
    List.mem_flatMap.mpr ⟨q, step, mem_octantPoints.mpr image⟩
  exact ⟨plots (by omega), plots (by omega), plots (by omega)⟩

/-- Settles O35: the spans of a step are horizontal lines (`mem_linePoints_horizontal`) from left to right, since its
offsets are not negative (`getElem?_circleSteps`). -/
theorem fillCircleCoversItsSpans : Obligations.FillCircleCoversItsSpans := by
  intro xc yc r p
  rw [fillCirclePoints, List.mem_flatMap]
  refine exists_congr fun q => and_congr_right fun step => ?_
  obtain ⟨i, at_i⟩ := List.getElem?_of_mem step
  obtain ⟨-, nonneg, octant, -⟩ := getElem?_circleSteps at_i
  simp only [spanPoints, List.mem_append, mem_linePoints_horizontal]
  omega

/-! ## Runs of the draw engine -/

/-- The framebuffer after a list of points is plotted in one colour. -/
def Memory.plots (m : Memory) (ps : List Point) (c : Half) : Memory := ps.foldl (fun m p => m.writePixel p c) m

/-- The sticky bits after a list of points is plotted: COORD_RANGE if one of them is off the grid (R152). -/
def stickyAfterPlots (b : BitVec 10) (ps : List Point) : BitVec 10 :=
  if ∀ p ∈ ps, p.onGrid then b else b ||| Condition.coordRange.mask

theorem stickyAfterPlots_of_onGrid {ps : List Point} (onGrid : ∀ p ∈ ps, p.onGrid = true) (b : BitVec 10) :
    stickyAfterPlots b ps = b := if_pos onGrid

theorem stickyAfterPlots_cons (b : BitVec 10) (p : Point) (ps : List Point) :
    stickyAfterPlots b (p :: ps) =
      stickyAfterPlots (if p.onGrid then b else b ||| Condition.coordRange.mask) ps := by
  unfold stickyAfterPlots
  by_cases onGrid : p.onGrid = true <;> by_cases others : ∀ p ∈ ps, p.onGrid = true <;>
    simp [onGrid, others, BitVec.or_assoc]

/-- R151, R152 along a list: the pixels, and COORD_RANGE if one of the points is off the grid. -/
theorem State.foldl_plot_eq (ps : List Point) (c : Half) : ∀ s : State,
    ps.foldl (fun t p => t.plot p c) s =
      { s with fb := Memory.plots s.fb ps c, sticky := stickyAfterPlots s.sticky ps } := by
  induction ps with
  | nil => intro s; simp [Memory.plots, stickyAfterPlots]
  | cons p ps ih =>
    intro s
    rw [List.foldl_cons, ih, State.plot_eq, stickyAfterPlots_cons]
    rfl

theorem DrawCmd.penColor_eq (cmd : DrawCmd) (c : Half) : cmd.penColor c = if cmd = .clear then 0x0000#16 else c := by
  cases cmd <;> simp [DrawCmd.penColor]

/-- R150, R168: one turn for each point left and one more plot them in order and complete. -/
theorem afterTurns_draws (ps : List Point) : ∀ {s : State} {job : DrawJob}, s.drawJob = some job →
    job.cmd.points.drop job.k = ps →
      afterTurns (List.replicate (ps.length + 1) .draw) s =
        { s with
          fb := Memory.plots s.fb ps (job.cmd.penColor job.color)
          sticky := stickyAfterPlots s.sticky ps ||| 0x001#10
          cursor := if job.cmd = .clear then 0#32 else s.cursor
          drawJob := none } := by
  induction ps with
  | nil =>
    intro s job running left
    have completes := drawStep_of_end running (List.drop_eq_nil_iff.mp left)
    rw [drawComplete_eq] at completes
    refine completes.trans ?_
    rw [stickyAfterPlots_of_onGrid (by simp)]
    rfl
  | cons p ps ih =>
    intro s job running left
    have current : job.cmd.points[job.k]? = some p := by
      rw [← List.head?_drop, left]
      rfl
    have leftNext : job.cmd.points.drop (job.k + 1) = ps := by
      rw [← List.drop_drop, left]
      rfl
    have plotted := drawStep_of_point running current
    rw [State.plot_eq] at plotted
    show afterTurns (List.replicate (ps.length + 1) .draw) (drawStep s) = _
    rw [plotted]
    refine (ih (job := { job with k := job.k + 1 }) rfl leftNext).trans ?_
    rw [stickyAfterPlots_cons]
    rfl

/-- A whole draw command, from its acceptance. -/
theorem runTurns_drawCommand {s : State} {cmd : DrawCmd} {c : Half}
    (accepted : s.drawJob = some { cmd := cmd, color := c, k := 0 }) :
    runTurns (List.replicate (cmd.points.length + 1) .draw) s =
      .next { s with
        fb := Memory.plots s.fb cmd.points (cmd.penColor c)
        sticky := stickyAfterPlots s.sticky cmd.points ||| 0x001#10
        cursor := if cmd = .clear then 0#32 else s.cursor
        drawJob := none } := by
  rw [runTurns_eq, afterTurns_draws cmd.points accepted rfl]

/-- Settles O25: `runTurns_drawCommand`, the plots one by one (`State.foldl_plot_eq`). -/
theorem drawCommandRunsToCompletion : Obligations.DrawCommandRunsToCompletion := by
  intro s cmd c accepted pen drawn
  have plotted : drawn = _ := State.foldl_plot_eq cmd.points pen s
  rw [runTurns_drawCommand accepted, DrawCmd.penColor_eq, plotted]

/-! ### What the plots leave -/

/-- The byte of a colour at an even and at an odd framebuffer index (R151). -/
def pixelByte (c : Half) (j : Nat) : Byte := if j % 2 = 0 then c.extractLsb' 8 8 else c.extractLsb' 0 8

/-- A byte after one plot: it is the plotted pixel's if its pair of bytes has the point's index. -/
theorem Memory.read_writePixel_pair {m : Memory} (sorted : m.Sorted) (p : Point) (c : Half) {j : Nat}
    (inFb : j < Config.fbBytes) :
    (m.writePixel p c).read j = if p.index = (2 * (j / 2) : Nat) then pixelByte c j else m.read j := by
  obtain ⟨half, even⟩ : ∃ half : Int, p.index = half * 2 := ⟨_, rfl⟩
  rw [Memory.read_writePixel sorted p c j inFb, pixelByte]
  by_cases byte1 : (j : Int) = p.index
  · rw [if_pos byte1, if_pos (by omega), if_pos (by omega)]
  · by_cases byte2 : (j : Int) = p.index + 1
    · rw [if_neg byte1, if_pos byte2, if_pos (by omega), if_neg (by omega)]
    · rw [if_neg byte1, if_neg byte2, if_neg (by omega)]

/-- A byte after a list of plots. -/
theorem Memory.read_plots (ps : List Point) (c : Half) {j : Nat} (inFb : j < Config.fbBytes) : ∀ {m : Memory}, m.wf →
    (m.plots ps c).read j = if ∃ p ∈ ps, p.index = (2 * (j / 2) : Nat) then pixelByte c j else m.read j := by
  induction ps with
  | nil => intro m _; simp [Memory.plots]
  | cons p ps ih =>
    intro m wf
    show (Memory.plots (m.writePixel p c) ps c).read j = _
    rw [ih (Memory.writePixel_wf wf p c), Memory.read_writePixel_pair wf.1 p c inFb]
    simp only [List.exists_mem_cons_iff]
    by_cases here : p.index = (2 * (j / 2) : Nat) <;> simp only [here, true_or, false_or, if_true, if_false, ite_self]

/-! ### CLEAR -/

theorem length_clearPoints : clearPoints.length = 16384 := by simp [clearPoints, Config.width, Config.height]

theorem onGrid_of_mem_clearPoints : ∀ p ∈ clearPoints, p.onGrid = true := by
  simp only [clearPoints, List.forall_mem_map, List.mem_range, Point.onGrid_iff, Config.width, Config.height]
  omega

/-- R167: each pair of framebuffer bytes is a point of CLEAR. -/
theorem exists_clearPoint {j : Nat} (inFb : j < Config.fbBytes) : ∃ p ∈ clearPoints, p.index = (2 * (j / 2) : Nat) := by
  simp only [Config.fbBytes] at inFb
  refine ⟨_, List.mem_map_of_mem (List.mem_range.mpr (show j / 2 < Config.width * Config.height from ?_)), ?_⟩
  · simp only [Config.width, Config.height]
    omega
  · simp only [Point.index, Config.width]
    omega

/-- Settles O36: every byte is a plotted one (`exists_clearPoint`), in the colour 0. -/
theorem clearZeroesTheFramebuffer : Obligations.ClearZeroesTheFramebuffer := by
  intro s c wf accepted
  have zero : ∀ i < 32768, (Memory.plots s.fb clearPoints 0#16).read i = 0x00#8 := by
    intro i inFb
    rw [Memory.read_plots clearPoints _ inFb wf, if_pos (exists_clearPoint inFb), pixelByte]
    split <;> decide
  have points : DrawCmd.clear.points = clearPoints := rfl
  have pen : DrawCmd.clear.penColor c = 0#16 := rfl
  have ended := runTurns_drawCommand accepted
  rw [points, pen, length_clearPoints, stickyAfterPlots_of_onGrid onGrid_of_mem_clearPoints] at ended
  simp only [if_true] at ended
  generalize Memory.plots s.fb clearPoints 0#16 = cleared at zero ended
  exact ⟨_, ended, zero, rfl⟩

/-! ### FILLRECT -/

theorem mem_fillRectPoints {x0 y0 w h : Int} {p : Point} :
    p ∈ fillRectPoints x0 y0 w h ↔ (x0 ≤ p.x ∧ p.x < x0 + w) ∧ y0 ≤ p.y ∧ p.y < y0 + h := by
  obtain ⟨x, y⟩ := p
  simp only [fillRectPoints, bind_pure_comp, List.map_eq_map, List.flatMap_map, List.map_map, List.mem_flatMap,
    List.mem_map, List.mem_range, Function.comp_apply, Point.mk.injEq]
  constructor
  · rintro ⟨j, row, i, column, rfl, rfl⟩
    omega
  · rintro ⟨⟨left, right⟩, top, bottom⟩
    exact ⟨(y - y0).toNat, by omega, (x - x0).toNat, by omega, by omega, by omega⟩

section
variable {x0 y0 w h : Int} (left : 0 ≤ x0) (right : x0 + w ≤ 128)
include left right

theorem onGrid_of_mem_fillRectPoints (top : 0 ≤ y0) (bottom : y0 + h ≤ 128) :
    ∀ p ∈ fillRectPoints x0 y0 w h, p.onGrid = true := by
  intro p plotted
  rw [mem_fillRectPoints] at plotted
  rw [Point.onGrid_iff]
  omega

/-- On the grid an index names one pixel. -/
theorem exists_fillRectPoint_iff {x y : Nat} (inRow : x < 128) :
    (∃ p ∈ fillRectPoints x0 y0 w h, p.index = (2 * (x + 128 * y) : Nat)) ↔
      x0 ≤ x ∧ (x : Int) < x0 + w ∧ y0 ≤ y ∧ (y : Int) < y0 + h := by
  constructor
  · rintro ⟨⟨px, py⟩, plotted, index⟩
    rw [mem_fillRectPoints] at plotted
    simp only [Point.index, Config.width] at plotted index
    omega
  · intro inside
    exact ⟨⟨x, y⟩, mem_fillRectPoints.mpr (by dsimp only; omega), Point.index_grid x y⟩

end

/-- Settles O37: the bytes of a pixel are plotted exactly if it is a point of the list (`exists_fillRectPoint_iff`). -/
theorem fillRectPaintsTheRectangle : Obligations.FillRectPaintsTheRectangle := by
  intro s x0 y0 w h c wf accepted left top right bottom
  have ended := runTurns_drawCommand accepted
  have points : (DrawCmd.fillRect x0 y0 w h).points = fillRectPoints x0 y0 w h := rfl
  rw [points, (fillRectVisitsRowsInOrder x0 y0 w h).1,
    stickyAfterPlots_of_onGrid (onGrid_of_mem_fillRectPoints left right top bottom)] at ended
  refine ⟨_, ended, ?_, rfl⟩
  intro x y inRow inColumn i inside
  have painted : ∀ b < 2, Memory.read (Memory.plots s.fb (fillRectPoints x0 y0 w h) c) (i + b) =
      if inside then pixelByte c (i + b) else Memory.read s.fb (i + b) := by
    intro b ofPixel
    have inFb : i + b < Config.fbBytes := by simp only [i, Config.fbBytes]; omega
    have pair : 2 * ((i + b) / 2) = 2 * (x + 128 * y) := by omega
    rw [Memory.read_plots _ c inFb wf, pair]
    simp only [exists_fillRectPoint_iff left right inRow, inside]
  have byte1 : pixelByte c (i + 0) = c.extractLsb' 8 8 := if_pos (by omega)
  have byte2 : pixelByte c (i + 1) = c.extractLsb' 0 8 := if_neg (by omega)
  refine ⟨fun isIn => ⟨?_, ?_⟩, fun isOut => ⟨?_, ?_⟩⟩
  · exact (painted 0 (by decide)).trans ((if_pos isIn).trans byte1)
  · exact (painted 1 (by decide)).trans ((if_pos isIn).trans byte2)
  · exact (painted 0 (by decide)).trans (if_neg isOut)
  · exact (painted 1 (by decide)).trans (if_neg isOut)

end Sys2Proof.Machine

namespace Sys2Proof

/-! ## The decoder -/

/-- R121, R122: the codes of the table are those that are not reserved. -/
theorem exists_instrOfCode_iff (c : Byte) : (∃ i, instrOfCode c = some i) ↔ reservedCode c = false := by
  constructor
  · rintro ⟨i, row⟩
    obtain rfl := (instrOfCode_eq_some_iff c i).mp row
    obtain ⟨-, -, code⟩ := encodingForm i
    rwa [((eq_encode_iff _ i).mp rfl).2] at code
  · intro free
    rw [← Bool.not_eq_true, reservedCode_iff] at free
    have row : (1 ≤ c.toNat ∧ c.toNat ≤ 7) ∨ (32 ≤ c.toNat ∧ c.toNat ≤ 37) := by omega
    unfold instrOfCode
    generalize c.toNat = n at row
    rcases row with ⟨low, high⟩ | ⟨low, high⟩ <;> interval_cases n <;> exact ⟨_, rfl⟩

/-- Settles O2: the decoder reads RSVD and the code (`decode_eq_ok_iff_fields`), and has every code that is not reserved
(`exists_instrOfCode_iff`). -/
theorem decodeAcceptsExactlyWellFormedWords : Obligations.DecodeAcceptsExactlyWellFormedWords := by
  intro w
  simp only [decode_eq_ok_iff_fields, exists_and_left, exists_instrOfCode_iff, commandWordWellFormed, Bool.and_eq_true,
    beq_iff_eq, Bool.not_eq_true']

/-- Settles O3: six closed computations. -/
theorem decodeReadsSpecWords : Obligations.DecodeReadsSpecWords := by
  unfold Obligations.DecodeReadsSpecWords
  decide

end Sys2Proof

namespace Sys2Proof.Machine

/-! ## Issuing a command -/

section
variable (s : State)

/-- `hostAccess_writeAccess`, as the state it answers. -/
theorem afterAccess_writeAccess (r : Reg) (v : Word) :
    afterAccess (writeAccess r v) s = afterWriteReg r v (s.respond ⟨.okay, 0#32⟩) :=
  Host.Outcome.next.inj ((hostAccess_eq _ s).symm.trans (hostAccess_writeAccess s r v))

/-- R114: the CMD write of a command's word issues the command. -/
theorem afterAccess_commandWrite {w : Word} {i : Instr} (decoded : decode w = .ok i) :
    afterAccess (commandWrite w) s = afterExec i (s.respond ⟨.okay, 0#32⟩) := by
  refine (afterAccess_writeAccess s .cmd w).trans ?_
  simp only [afterWriteReg, afterCommand, decoded]

end

/-- Settles O4: the turn taken is the CMD write (`afterAccess_commandWrite`). -/
theorem stepIssuesTheDecodedCommand : Obligations.StepIssuesTheDecodedCommand := by
  intro s w i decoded
  have taken : ∀ (s : State) rest, s.agenda = .host (commandWrite w) :: rest →
      step s = exec i { s with agenda := rest, response := some ⟨.okay, 0#32⟩ } := by
    intro s rest agenda
    rw [step_eq, agenda, exec_eq]
    exact congrArg Host.Outcome.next (afterAccess_commandWrite { s with agenda := rest } decoded)
  refine ⟨taken s, ?_⟩
  have word : BitVec.ofNat 32 (w.toNat % 2 ^ 32) = w := by
    rw [Nat.mod_eq_of_lt w.isLt, BitVec.ofNat_toNat, BitVec.setWidth_eq]
  exact taken (s.withFetchWord 32 w.toNat) s.agenda (by rw [State.withFetchWord, word]; rfl)

/-- Settles O60: the step is a turn (`step_eq`), and every turn answers. -/
theorem stepAlwaysAnswersNext : Obligations.StepAlwaysAnswersNext := by
  intro s
  rw [step_eq]
  cases s.agenda with
  | nil => exact ⟨_, rfl⟩
  | cons u rest => exact ⟨_, rfl⟩

/-! ### Operands -/

/-- R117: s16 is the signed reading. -/
theorem s16_eq_toInt (f : Half) : s16 f = f.toInt := by
  rw [s16, BitVec.toInt_eq_toNat_cond]
  exact ite_congr (by simp only [eq_iff_iff]; omega) (fun _ => rfl) fun _ => rfl

theorem s32_eq_toInt (f : Word) : s32 f = f.toInt := by
  rw [s32, BitVec.toInt_eq_toNat_cond]
  exact ite_congr (by simp only [eq_iff_iff]; omega) (fun _ => rfl) fun _ => rfl

/-- Byte j of the payload buffer (R37). -/
def State.payloadByte (s : State) (j : Nat) : Byte :=
  ((if j < 4 then s.payload0 else if j < 8 then s.payload1 else if j < 12 then s.payload2 else s.payload3)
    : Word).extractLsb' (8 * (j % 4)) 8

theorem State.payloadBytes_eq (s : State) : s.payloadBytes = (List.range 16).map s.payloadByte := rfl

theorem State.take_payloadBytes (s : State) {n : Nat} (short : n ≤ 16) :
    s.payloadBytes.take n = (List.range n).map s.payloadByte := by
  rw [State.payloadBytes_eq, ← List.map_take, List.take_range, Nat.min_eq_left short]

/-! ### Acceptance -/

section
variable {s : State}

theorem acceptDraw_of_idle (idle : s.drawJob = none) (cmd : DrawCmd) :
    acceptDraw cmd s = { s with drawJob := some { cmd := cmd, color := s.color565, k := 0 } } := by
  simp only [acceptDraw, idle]

theorem acceptFramer_of_idle (idle : s.framerJob = none) (cmd : FramerCmd) :
    acceptFramer cmd s = cmd.onAccept { s with framerJob := some { cmd := cmd, m := 0, pending := none } } := by
  simp only [acceptFramer, idle]

end

/-- Settles O7: each command reaches `acceptDraw` with its operands, whose fields are read signed (`s16_eq_toInt`). -/
theorem drawCommandsAreAccepted : Obligations.DrawCommandsAreAccepted := by
  intro s idle a b c d accepted
  have accepts (i : Instr) (cmd cmd' : DrawCmd) (issued : afterExec i s = acceptDraw cmd s) (operands : cmd = cmd') :
      exec i s = accepted cmd' := by
    rw [exec_eq, issued, acceptDraw_of_idle idle, operands]
  have low (v : Word) : lowOperand v = (v.extractLsb' 0 16).toInt := s16_eq_toInt _
  have high (v : Word) : highOperand v = (v.extractLsb' 16 16).toInt := s16_eq_toInt _
  refine ⟨accepts .plot _ _ rfl ?_, accepts .line _ _ rfl ?_, accepts .rect _ _ rfl ?_, accepts .fillRect _ _ rfl ?_,
    accepts .circle _ _ rfl ?_, accepts .fillCircle _ _ rfl ?_, accepts .clear _ _ rfl rfl⟩
  · rw [State.plotOperands, low, high]
  · rw [State.lineOperands, low, high, low, high]
  · rw [State.rectOperands, low, high, low, high]
  · rw [State.fillRectOperands, low, high, low, high]
  · rw [State.circleOperands, low, high, low]
  · rw [State.fillCircleOperands, low, high, low]

/-- The sticky bits that acceptance sets (R217). -/
def FramerCmd.warning (cmd : FramerCmd) : BitVec 10 :=
  match cmd with
  | .contrast v => if v < 0 then 0x100#10 else if 255 < v then 0x200#10 else 0#10
  | .refresh | .sendcmd _ _ | .vscroll _ | .busOpen _ | .busClose => 0#10

/-- R212, R217: what acceptance sets beside the latch. -/
theorem FramerCmd.onAccept_eq (cmd : FramerCmd) (s : State) :
    cmd.onAccept s =
      { s with guard := if cmd = .refresh then true else s.guard, sticky := s.sticky ||| cmd.warning } := by
  cases cmd with
  | contrast v =>
    simp only [FramerCmd.onAccept, contrastWarning, FramerCmd.warning, Config.contrastMin, Config.contrastMax,
      reduceCtorEq, if_false]
    by_cases low : v < 0
    · simp only [low, if_true]
      rfl
    · by_cases high : 255 < v
      · simp only [low, high, if_true, if_false]
        rfl
      · simp only [low, high, if_false, BitVec.or_zero]
  | refresh | sendcmd | vscroll | busOpen | busClose => simp [FramerCmd.onAccept, FramerCmd.warning]

/-- Settles O8: each command reaches `acceptFramer` with its operands; what acceptance sets is
`FramerCmd.onAccept_eq`. -/
theorem framerCommandsAreAccepted : Obligations.FramerCommandsAreAccepted := by
  intro s idle len payloadByte job
  have accepts (i : Instr) (cmd : FramerCmd) (issued : afterExec i s = acceptFramer cmd s) :
      exec i s = .next { s with
        framerJob := job cmd
        guard := if cmd = .refresh then true else s.guard
        sticky := s.sticky ||| cmd.warning } := by
    rw [exec_eq, issued, acceptFramer_of_idle idle, FramerCmd.onAccept_eq]
  have quiet (i : Instr) (cmd : FramerCmd) (issued : afterExec i s = acceptFramer cmd s) (notRefresh : cmd ≠ .refresh)
      (silent : cmd.warning = 0#10) : exec i s = .next { s with framerJob := job cmd } := by
    rw [accepts i cmd issued, if_neg notRefresh, silent, BitVec.or_zero]
  refine ⟨?refresh, fun short => ?sendcmd, ?contrast, quiet .vscroll _ rfl (by simp) rfl,
    quiet .busOpen _ rfl (by simp) rfl, quiet .busClose _ rfl (by simp) rfl⟩
  case refresh =>
    rw [accepts .refresh .refresh rfl, FramerCmd.warning, BitVec.or_zero]
    rfl
  case sendcmd =>
    rw [quiet .sendcmd _ (afterExec_sendcmd short) (by simp [State.sendcmdOperands]) rfl, State.sendcmdOperands,
      State.payloadLength, State.take_payloadBytes s short]
    rfl
  case contrast =>
    rw [accepts .contrast _ rfl, State.contrastOperands, s32_eq_toInt, FramerCmd.warning]
    simp only [reduceCtorEq, if_false]
    split
    · rfl
    · split
      · rfl
      · rw [BitVec.or_zero]

/-- Settles O6: the check of the length comes first, and is the only one. -/
theorem longSendcmdRecordsBadCommand : Obligations.LongSendcmdRecordsBadCommand := by
  refine ⟨fun s long => if_pos long, fun i v => ?_⟩
  cases i with
  | sendcmd => simp [Instr.wellFormed, Config.payloadMax]
  | plot | line | rect | fillRect | circle | fillCircle | clear | refresh | contrast | vscroll | busOpen | busClose =>
    simp [Instr.wellFormed]

/-! ### The frame of a command -/

section
variable {s : State}

/-- R121: a command that is no draw command is rejected by its length, or goes to the framer. -/
theorem afterExec_framer (s : State) {i : Instr}
    (notDraw : i ∉ [Instr.plot, .line, .rect, .fillRect, .circle, .fillCircle, .clear]) :
    afterExec i s = s.raise .errBadCmd ∨
      ∃ cmd, afterExec i s = acceptFramer cmd s ∧ (i ≠ .refresh → cmd ≠ .refresh) := by
  cases i with
  | plot | line | rect | fillRect | circle | fillCircle | clear => simp at notDraw
  | refresh => exact .inr ⟨.refresh, rfl, absurd rfl⟩
  | sendcmd =>
    by_cases long : s.payloadLength > Config.payloadMax
    · exact .inl (if_pos long)
    · exact .inr ⟨_, if_neg long, fun _ => by simp [State.sendcmdOperands]⟩
  | contrast => exact .inr ⟨_, rfl, fun _ => by simp [State.contrastOperands]⟩
  | vscroll => exact .inr ⟨_, rfl, fun _ => by simp [State.vscrollOperands]⟩
  | busOpen => exact .inr ⟨_, rfl, fun _ => by simp [State.busOpenOperands]⟩
  | busClose => exact .inr ⟨_, rfl, fun _ => by simp⟩

/-- What a draw command leaves of the framer's state, and the one bit it may set (R116). -/
theorem acceptDraw_frame (cmd : DrawCmd) (s : State) :
    (acceptDraw cmd s).framerJob = s.framerJob ∧ (acceptDraw cmd s).guard = s.guard ∧
      (acceptDraw cmd s).sticky ||| 0x020#10 = s.sticky ||| 0x020#10 := by
  rcases acceptDraw_cases cmd s with ⟨_, _, dropped⟩ | ⟨_, latched⟩
  · rw [dropped]
    exact ⟨rfl, rfl, or_or_of_subset s.sticky (by decide)⟩
  · rw [latched]
    exact ⟨rfl, rfl, rfl⟩

theorem FramerCmd.warning_subset (cmd : FramerCmd) : cmd.warning ||| 0x368#10 = 0x368#10 := by
  cases cmd with
  | contrast v =>
    simp only [FramerCmd.warning]
    split
    · rfl
    · split <;> rfl
  | refresh | sendcmd | vscroll | busOpen | busClose => exact BitVec.zero_or

theorem FramerCmd.dropCondition_subset (cmd : FramerCmd) : cmd.dropCondition.mask ||| 0x368#10 = 0x368#10 := by
  have dropped : cmd.dropCondition = .refreshRejected ∨ cmd.dropCondition = .errOverrun := by
    cases cmd <;> simp [FramerCmd.dropCondition]
  rcases dropped with rejected | overrun
  · rw [rejected]
    decide
  · rw [overrun]
    decide

/-- What a framer command leaves of the draw engine, the bits it may set, and the guard (R116, R212, R217). -/
theorem acceptFramer_frame (cmd : FramerCmd) (s : State) :
    (acceptFramer cmd s).drawJob = s.drawJob ∧ (acceptFramer cmd s).sticky ||| 0x368#10 = s.sticky ||| 0x368#10 ∧
      (cmd ≠ .refresh → (acceptFramer cmd s).guard = s.guard) := by
  rcases acceptFramer_cases cmd s with ⟨_, _, dropped⟩ | ⟨_, latched⟩
  · rw [dropped]
    exact ⟨rfl, or_or_of_subset s.sticky cmd.dropCondition_subset, fun _ => rfl⟩
  · rw [latched, FramerCmd.onAccept_eq]
    exact ⟨rfl, or_or_of_subset s.sticky cmd.warning_subset, fun notRefresh => if_neg notRefresh⟩

end

/-- Settles O10: the frame of every command is `IssueEffect`'s; what its engine adds is `acceptDraw_frame` or
`acceptFramer_frame`. -/
theorem issueChangesOnlyItsEngine : Obligations.IssueChangesOnlyItsEngine := by
  intro i s t issued isDraw
  rw [exec_eq] at issued
  obtain rfl := Host.Outcome.next.inj issued
  have effect := afterExec_effect i s
  have framer (notDraw : ¬ isDraw) : (afterExec i s).drawJob = s.drawJob ∧
      (afterExec i s).sticky ||| 0x368#10 = s.sticky ||| 0x368#10 ∧
      (i ≠ .refresh → (afterExec i s).guard = s.guard) := by
    rcases afterExec_framer s notDraw with rejected | ⟨cmd, accepted, notRefresh⟩
    · rw [rejected]
      exact ⟨rfl, or_or_of_subset s.sticky (by decide), fun _ => rfl⟩
    · obtain ⟨draw, sticky, guard⟩ := acceptFramer_frame cmd s
      rw [accepted]
      exact ⟨draw, sticky, fun other => guard (notRefresh other)⟩
  have draw (draws : isDraw) : (afterExec i s).framerJob = s.framerJob ∧ (afterExec i s).guard = s.guard ∧
      (afterExec i s).sticky ||| 0x020#10 = s.sticky ||| 0x020#10 := by
    obtain ⟨cmd, accepted⟩ := afterExec_draw s draws
    rw [accepted]
    exact acceptDraw_frame cmd s
  refine ⟨effect.frame, draw, fun notDraw => ⟨(framer notDraw).1, (framer notDraw).2.1⟩, fun notRefresh => ?_,
    effect.sticky_kept, effect.drawJob_of_busy, effect.framerJob_of_busy⟩
  by_cases draws : isDraw
  · exact (draw draws).2.1
  · exact (framer draws).2.2 notRefresh

/-! ## Registers -/

/-! ### Fields of a word -/

/-- The mask of bits 17:8, bit by bit. -/
theorem getLsbD_stickyMask (i : Nat) : (0x0003FF00#32).getLsbD i = decide (8 ≤ i ∧ i ≤ 17) := by
  by_cases inWord : i < 32
  · exact (by decide : ∀ i < 32, (0x0003FF00#32).getLsbD i = decide (8 ≤ i ∧ i ≤ 17)) i inWord
  · rw [BitVec.getLsbD_of_ge _ _ (not_lt.mp inWord), eq_comm, decide_eq_false_iff_not]
    omega

/-- R28, R30: bits 17:8 of a word, in their place. -/
theorem and_stickyMask_eq_append (v : Word) : v &&& 0x0003FF00#32 = 0#14 ++ v.extractLsb' 8 10 ++ 0#8 := by
  refine BitVec.eq_of_getLsbD_eq fun i inWord => ?_
  show _ = BitVec.getLsbD (w := 14 + 10 + 8) (0#14 ++ v.extractLsb' 8 10 ++ 0#8) i
  simp only [BitVec.getLsbD_and, getLsbD_stickyMask, BitVec.getLsbD_append, BitVec.getLsbD_extractLsb',
    BitVec.getLsbD_zero]
  grind

/-- R26: CTRL stores the low three bits of a word. -/
theorem Ctrl.toWord_ofWord (v : Word) : (Ctrl.ofWord v).toWord = v &&& 0x00000007#32 := by
  refine BitVec.eq_of_getLsbD_eq fun i inWord => ?_
  have mask : (0x00000007#32).getLsbD i = decide (i < 3) :=
    (by decide : ∀ i < 32, (0x00000007#32).getLsbD i = decide (i < 3)) i inWord
  rw [BitVec.getLsbD_and, mask]
  show BitVec.getLsbD (w := 29 + 1 + 1 + 1)
    (0#29 ++ BitVec.ofBool (v.getLsbD 2) ++ BitVec.ofBool (v.getLsbD 1) ++ BitVec.ofBool (v.getLsbD 0)) i = _
  simp only [BitVec.getLsbD_append, BitVec.getLsbD_zero]
  grind

theorem and_0xFFFF_eq_append (v : Word) : v &&& 0x0000FFFF#32 = 0#16 ++ v.extractLsb' 0 16 := by
  refine BitVec.eq_of_getLsbD_eq fun i inWord => ?_
  have mask : (0x0000FFFF#32).getLsbD i = decide (i < 16) :=
    (by decide : ∀ i < 32, (0x0000FFFF#32).getLsbD i = decide (i < 16)) i inWord
  rw [BitVec.getLsbD_and, mask]
  show _ = BitVec.getLsbD (w := 16 + 16) (0#16 ++ v.extractLsb' 0 16) i
  simp only [BitVec.getLsbD_append, BitVec.getLsbD_zero, BitVec.getLsbD_extractLsb']
  grind

/-- R29: STATUS after a write of v. -/
theorem State.statusWord_acknowledge (s : State) (v : Word) :
    (s.acknowledge v).statusWord = s.statusWord &&& ~~~(v &&& 0x0003FF00#32) := by
  refine BitVec.eq_of_getLsbD_eq fun i inWord => ?_
  rw [State.getLsbD_statusWord_acknowledge, BitVec.getLsbD_and, BitVec.getLsbD_not, BitVec.getLsbD_and,
    getLsbD_stickyMask, decide_eq_true inWord, Bool.true_and, Bool.and_comm (v.getLsbD i)]

/-- The four live bits of STATUS. -/
theorem getLsbD_liveBits (a b c d : Bool) :
    let live : BitVec 8 := 0#4 ++ BitVec.ofBool a ++ BitVec.ofBool b ++ BitVec.ofBool c ++ BitVec.ofBool d
    live.getLsbD 0 = d ∧ live.getLsbD 1 = c ∧ live.getLsbD 2 = b ∧ live.getLsbD 3 = a ∧
      ∀ i < 8, 4 ≤ i → live.getLsbD i = false := by
  revert a b c d
  decide

/-- Settles O15: the live bits below bit 8, the sticky field from there on (`State.getLsbD_statusWord`). -/
theorem statusWordShowsLiveAndStickyBits : Obligations.StatusWordShowsLiveAndStickyBits := by
  intro s
  obtain ⟨draw, framer, guard, bus, reserved⟩ := getLsbD_liveBits s.busOpen s.guard s.fbusy s.dbusy
  simp only [State.getLsbD_statusWord]
  refine ⟨draw, framer, guard, bus, fun i low high => if_neg (not_lt.mpr low), fun i outside => ?_⟩
  by_cases low : i < 8
  · rw [if_pos low]
    exact reserved i low (by omega)
  · rw [if_neg low]
    exact BitVec.getLsbD_of_ge _ _ (by omega)

/-! ### What a write leaves in the registers -/

/-- R23 to R38: a register after a write to it. -/
theorem readReg_afterWriteReg_same (s : State) (r : Reg) (v : Word) :
    (afterWriteReg r v s).readReg r = match r with
      | .params => 0x10C28080#32
      | .ctrl => v &&& 0x00000007#32
      | .status => s.statusWord &&& ~~~(v &&& 0x0003FF00#32)
      | .irqEn => v &&& 0x0003FF00#32
      | .clockHz => v &&& 0xFFFF0000#32
      | .color565 => v &&& 0x0000FFFF#32
      | .colorRgb => 0#32
      | .cursor | .arg0 | .arg1 | .payload0 | .payload1 | .payload2 | .payload3 => v
      | .cmd => 0#32 := by
  cases r with
  | ctrl =>
    simp only [afterWriteReg, State.writeCtrl_eq]
    exact Ctrl.toWord_ofWord v
  | status => exact s.statusWord_acknowledge v
  | irqEn => exact (and_stickyMask_eq_append v).symm
  | color565 => exact (and_0xFFFF_eq_append v).symm
  | params | clockHz | colorRgb | cursor | arg0 | arg1 | payload0 | payload1 | payload2 | payload3 | cmd => rfl

/-- R24: a read of a register is answered with its value and changes nothing else. -/
theorem hostAccess_readReg (s : State) (r : Reg) (d : Word) :
    hostAccess { dir := .read, offset := r.offset, size := .four, wdata := d } s =
      .next { s with response := some ⟨.okay, s.readReg r⟩ } :=
  hostAccess_of_read (a := readAccess r) s (addressMap_offset r) rfl

/-- Settles O11: `readReg_afterWriteReg_same`, read back by `hostAccess_readReg`. -/
theorem registerWriteThenReadBack : Obligations.RegisterWriteThenReadBack := by
  refine ⟨fun s v d r => ⟨_, runTurns_eq _ s, ?_⟩, fun s d => hostAccess_readReg s .cmd d⟩
  have written := afterAccess_writeAccess s r v
  have read (t : State) : afterAccess { dir := .read, offset := r.offset, size := .four, wdata := d } t =
      { t with response := some ⟨.okay, t.readReg r⟩ } :=
    Host.Outcome.next.inj ((hostAccess_eq _ t).symm.trans (hostAccess_readReg t r d))
  show (afterAccess _ (afterAccess (writeAccess r v) s)).response = _
  rw [written, read, readReg_afterWriteReg_same]
  cases r <;> rfl

/-- R21: the registers a register write leaves as they were. -/
theorem readReg_afterWriteReg_other (s : State) {r q : Reg} (v : Word) (notCmd : r ≠ .cmd) (other : q ≠ r)
    (notColor : ¬ (r = .colorRgb ∧ q = .color565)) : (afterWriteReg r v s).readReg q = s.readReg q := by
  cases r with
  | cmd => exact absurd rfl notCmd
  | ctrl =>
    simp only [afterWriteReg, State.writeCtrl_eq]
    cases q <;> first | rfl | exact absurd rfl other
  | colorRgb => cases q <;> first | rfl | exact absurd ⟨rfl, rfl⟩ notColor
  | params | status | irqEn | clockHz | color565 | cursor | arg0 | arg1 | payload0 | payload1 | payload2 | payload3 =>
    cases q <;> first | rfl | exact absurd rfl other

/-- A register write other than CMD changes the register fields, the answer aside, and only CTRL emits. -/
theorem afterWriteReg_frame (s : State) {r : Reg} (v : Word) (notCmd : r ≠ .cmd) :
    let t := afterWriteReg r v s
    t.fb = s.fb ∧ t.drawJob = s.drawJob ∧ t.framerJob = s.framerJob ∧ t.guard = s.guard ∧ t.busOpen = s.busOpen ∧
      t.dcLevel = s.dcLevel ∧ t.agenda = s.agenda ∧ (r ≠ .ctrl → t.trace = s.trace) := by
  cases r with
  | cmd => exact absurd rfl notCmd
  | ctrl =>
    simp only [afterWriteReg, State.writeCtrl_eq]
    simp
  | params | status | irqEn | clockHz | color565 | colorRgb | cursor | arg0 | arg1 | payload0 | payload1 | payload2
  | payload3 => exact ⟨rfl, rfl, rfl, rfl, rfl, rfl, rfl, fun _ => rfl⟩

/-- Settles O12: `readReg_afterWriteReg_other` and `afterWriteReg_frame`. -/
theorem registerWriteLeavesOthersAlone : Obligations.RegisterWriteLeavesOthersAlone := by
  intro s t v r notCmd written
  obtain rfl := Host.Outcome.next.inj ((hostAccess_writeAccess s r v).symm.trans written)
  have unread (q : Reg) : (s.respond ⟨.okay, 0#32⟩).readReg q = s.readReg q := by cases q <;> rfl
  exact ⟨fun q other notColor => (readReg_afterWriteReg_other _ v notCmd other notColor).trans (unread q),
    afterWriteReg_frame _ v notCmd⟩

/-- The register map in the order of its offsets (R23). -/
def allRegs : List Reg :=
  [.params, .ctrl, .status, .irqEn, .clockHz, .color565, .colorRgb, .cursor, .arg0, .arg1, .payload0, .payload1,
    .payload2, .payload3, .cmd]

/-- Settles O58: each reset value is the register's, read by `hostAccess_readReg`. -/
theorem resetStateHasSpecValues : Obligations.ResetStateHasSpecValues := by
  refine ⟨fun o v reads => ?_, by decide⟩
  change (o, v) ∈ allRegs.map fun r => (r.offset, State.reset.readReg r) at reads
  obtain ⟨r, -, same⟩ := List.mem_map.mp reads
  obtain ⟨rfl, rfl⟩ := Prod.mk.inj same
  exact hostAccess_readReg State.reset r 0#32

/-! ### The colour conversion -/

/-- A field of a field. -/
theorem extractLsb'_extractLsb'_byte (v : Word) {start low n : Nat} (inside : low + n ≤ 8) :
    (v.extractLsb' start 8).extractLsb' low n = v.extractLsb' (start + low) n := by
  ext i inField
  have inByte : low + i < 8 := by omega
  simp [inByte, Nat.add_assoc]

theorem append_eq_append_iff {n m : Nat} {a b : BitVec n} {c d : BitVec m} : a ++ c = b ++ d ↔ a = b ∧ c = d := by
  refine ⟨fun same => ⟨?_, ?_⟩, fun ⟨high, low⟩ => by rw [high, low]⟩
  · simpa [BitVec.extractLsb'_append_eq_left] using congrArg (BitVec.extractLsb' m n) same
  · simpa [BitVec.extractLsb'_append_eq_right] using congrArg (BitVec.extractLsb' 0 m) same

/-- A field above the low part of a concatenation. -/
theorem extractLsb'_append_above {n m k len : Nat} (x : BitVec n) (y : BitVec m) :
    (x ++ y).extractLsb' (m + k) len = x.extractLsb' k len := by
  rw [BitVec.extractLsb'_append_eq_ite, dif_neg (by omega), Nat.add_sub_cancel_left]

/-- R141: the conversion by the fields of the word. -/
theorem toPanelColor_eq_append (v : Word) :
    toPanelColor v = v.extractLsb' 19 5 ++ v.extractLsb' 10 6 ++ v.extractLsb' 3 5 := by
  rw [toPanelColor, colorBytes_eq_append, extractLsb'_extractLsb'_byte v (by decide),
    extractLsb'_extractLsb'_byte v (by decide), extractLsb'_extractLsb'_byte v (by decide)]

/-- Settles O19: the conversion is its three fields side by side (`toPanelColor_eq_append`); a word with given fields is
their bytes with zeros below. -/
theorem colorConversionKeepsOnlyTheTopBits : Obligations.ColorConversionKeepsOnlyTheTopBits := by
  refine ⟨fun v w => ?_, fun c => ?_⟩
  · rw [toPanelColor_eq_append, toPanelColor_eq_append, append_eq_append_iff, append_eq_append_iff, and_assoc]
  · let r : Byte := c.extractLsb' 11 5 ++ 0#3
    let g : Byte := c.extractLsb' 5 6 ++ 0#2
    let b : Byte := c.extractLsb' 0 5 ++ 0#3
    refine ⟨0#8 ++ r ++ g ++ b, ?_⟩
    have red : (0#8 ++ r ++ g ++ b).extractLsb' 16 8 = r :=
      (extractLsb'_append_above _ b (k := 8)).trans ((extractLsb'_append_above _ g (k := 0)).trans
        BitVec.extractLsb'_append_eq_right)
    have green : (0#8 ++ r ++ g ++ b).extractLsb' 8 8 = g :=
      (extractLsb'_append_above _ b (k := 0)).trans BitVec.extractLsb'_append_eq_right
    have blue : (0#8 ++ r ++ g ++ b).extractLsb' 0 8 = b := BitVec.extractLsb'_append_eq_right
    have fields : c.extractLsb' 11 5 ++ c.extractLsb' 5 6 ++ c.extractLsb' 0 5 = c := by
      have upper : c.extractLsb' 11 5 ++ c.extractLsb' 5 6 = c.extractLsb' 5 11 :=
        BitVec.extractLsb'_append_extractLsb'_eq_extractLsb' rfl
      have all : c.extractLsb' 5 11 ++ c.extractLsb' 0 5 = c.extractLsb' 0 16 :=
        BitVec.extractLsb'_append_extractLsb'_eq_extractLsb' rfl
      rw [upper, all, BitVec.extractLsb'_eq_self]
    rw [toPanelColor, colorBytes_eq_append, red, green, blue]
    show BitVec.extractLsb' 3 5 (c.extractLsb' 11 5 ++ 0#3) ++ BitVec.extractLsb' 2 6 (c.extractLsb' 5 6 ++ 0#2) ++
      BitVec.extractLsb' 3 5 (c.extractLsb' 0 5 ++ 0#3) = c
    rw [BitVec.extractLsb'_append_eq_left, BitVec.extractLsb'_append_eq_left, BitVec.extractLsb'_append_eq_left,
      fields]

/-! ## Host programs -/

/-! ### PLOT -/

/-- R130: P(x, y) keeps coordinates of the signed 16-bit range. -/
theorem operands_coordinatePair {x y : Int} (lowX : -32768 ≤ x) (highX : x ≤ 32767) (lowY : -32768 ≤ y)
    (highY : y ≤ 32767) : lowOperand (coordinatePair x y) = x ∧ highOperand (coordinatePair x y) = y := by
  constructor
  · rw [lowOperand, s16_eq_toInt, coordinatePair, BitVec.extractLsb'_append_eq_right]
    exact BitVec.toInt_ofInt_eq_self (by decide) lowX (Int.lt_add_one_of_le highX)
  · rw [highOperand, s16_eq_toInt, coordinatePair, BitVec.extractLsb'_append_eq_left]
    exact BitVec.toInt_ofInt_eq_self (by decide) lowY (Int.lt_add_one_of_le highY)

/-- Settles O50: the two accesses latch the PLOT, and two turns run it (`afterTurns_draws`). -/
theorem plotProgramDrawsItsPoint : Obligations.PlotProgramDrawsItsPoint := by
  intro s x y idle lowX highX lowY highY
  obtain ⟨operandX, operandY⟩ := operands_coordinatePair lowX highX lowY highY
  let loaded : State := { s with arg0 := coordinatePair x y, response := some ⟨.okay, 0#32⟩ }
  let accepted : State := { loaded with drawJob := some { cmd := .plot x y, color := s.color565, k := 0 } }
  have load : afterAccess (writeAccess .arg0 (coordinatePair x y)) s = loaded := afterAccess_writeAccess s .arg0 _
  have issue : afterAccess (commandWrite (encode .plot)) loaded = accepted := by
    have operands : State.plotOperands (loaded.respond ⟨.okay, 0#32⟩) = .plot x y := by
      show DrawCmd.plot (lowOperand (coordinatePair x y)) (highOperand (coordinatePair x y)) = _
      rw [operandX, operandY]
    rw [afterAccess_commandWrite loaded ((decode_eq_ok_iff _ _).mpr rfl)]
    show acceptDraw (State.plotOperands (loaded.respond ⟨.okay, 0#32⟩)) (loaded.respond ⟨.okay, 0#32⟩) = accepted
    rw [operands]
    exact acceptDraw_of_idle (s := loaded.respond ⟨.okay, 0#32⟩) idle _
  have run : afterTurns (List.replicate 2 .draw) accepted = _ := afterTurns_draws [⟨x, y⟩] rfl rfl
  rw [runTurns_eq, afterTurns_append]
  show Host.Outcome.next (afterTurns (List.replicate 2 .draw)
    (afterAccess (commandWrite (encode .plot)) (afterAccess (writeAccess .arg0 (coordinatePair x y)) s))) = _
  rw [load, issue, run, State.plot_eq]
  rw [stickyAfterPlots_cons, stickyAfterPlots_of_onGrid (by simp), idle]
  rfl

/-! ### SEND -/

/-- The PAYLOAD word q as it reads (R37). -/
def State.payloadWord (s : State) (q : Nat) : Word := s.readReg (payloadReg q)

theorem State.payloadByte_eq (s : State) {j : Nat} (inBuffer : j < 16) :
    s.payloadByte j = (s.payloadWord (j / 4)).extractLsb' (8 * (j % 4)) 8 := by
  interval_cases j <;> rfl

/-- R130: the bytes packed into one PAYLOAD word. -/
theorem extractLsb'_packPayload (bytes : List Byte) {k : Nat} (inWord : k < 4) :
    (packPayload bytes).extractLsb' (8 * k) 8 = bytes.getD k 0#8 := by
  have byte3 : (bytes.getD 3 0#8).extractLsb' 0 8 = bytes.getD 3 0#8 := BitVec.extractLsb'_eq_self
  interval_cases k
  · exact BitVec.extractLsb'_append_eq_right
  · exact (extractLsb'_append_above _ _ (k := 0)).trans BitVec.extractLsb'_append_eq_right
  · exact (extractLsb'_append_above _ _ (k := 8)).trans ((extractLsb'_append_above _ _ (k := 0)).trans
      BitVec.extractLsb'_append_eq_right)
  · exact (extractLsb'_append_above _ _ (k := 16)).trans ((extractLsb'_append_above _ _ (k := 8)).trans
      ((extractLsb'_append_above _ _ (k := 0)).trans byte3))

theorem payloadReg_ne {p q : Nat} (before : p < q) (last : q ≤ 3) : payloadReg p ≠ payloadReg q := by
  interval_cases q <;> interval_cases p <;> decide

theorem afterWriteReg_payloadReg (q : Nat) (v : Word) (s : State) :
    ∃ a b c d, afterWriteReg (payloadReg q) v s =
      { s with payload0 := a, payload1 := b, payload2 := c, payload3 := d } := by
  unfold payloadReg
  split <;> exact ⟨_, _, _, _, rfl⟩

theorem readReg_afterWriteReg_payloadReg (q : Nat) (v : Word) (s : State) :
    (afterWriteReg (payloadReg q) v s).readReg (payloadReg q) = v := by
  unfold payloadReg
  split <;> rfl

/-- The PAYLOAD writes of SEND. -/
def payloadTurns (w : Nat → Word) (q : Nat) : List Turn :=
  (List.range q).map fun i => .host (writeAccess (payloadReg i) (w i))

/-- The PAYLOAD writes leave their words, and change nothing but the PAYLOAD registers and the answer. -/
theorem afterTurns_payloadTurns (w : Nat → Word) (s : State) {q : Nat} (fits : q ≤ 4) :
    (∀ i < q, (afterTurns (payloadTurns w q) s).payloadWord i = w i) ∧
      ∃ a b c d r, afterTurns (payloadTurns w q) s =
        { s with payload0 := a, payload1 := b, payload2 := c, payload3 := d, response := r } := by
  induction q with
  | zero => exact ⟨by simp, _, _, _, _, _, rfl⟩
  | succ q ih =>
    obtain ⟨words, a, b, c, d, r, frame⟩ := ih (by omega)
    have last : afterTurns (payloadTurns w (q + 1)) s =
        afterWriteReg (payloadReg q) (w q) ((afterTurns (payloadTurns w q) s).respond ⟨.okay, 0#32⟩) := by
      rw [payloadTurns, List.range_succ, List.map_append, afterTurns_append]
      exact afterAccess_writeAccess _ _ _
    constructor
    · intro i inside
      rw [last, State.payloadWord]
      rcases Nat.lt_succ_iff_lt_or_eq.mp inside with before | rfl
      · have notCmd : payloadReg q ≠ .cmd := by unfold payloadReg; split <;> simp
        have notColor : ¬ (payloadReg q = .colorRgb ∧ payloadReg i = .color565) := by
          unfold payloadReg
          split <;> simp
        rw [readReg_afterWriteReg_other _ _ notCmd (payloadReg_ne before (by omega)) notColor, ← words i before]
        unfold State.payloadWord payloadReg
        split <;> rfl
      · exact readReg_afterWriteReg_payloadReg ..
    · obtain ⟨a', b', c', d', written⟩ :=
        afterWriteReg_payloadReg q (w q) ((afterTurns (payloadTurns w q) s).respond ⟨.okay, 0#32⟩)
      exact ⟨a', b', c', d', some ⟨.okay, 0#32⟩, by rw [last, written, frame]; rfl⟩

/-- The word that SEND writes to PAYLOAD q. -/
def payloadWordOf (payload : List Byte) (q : Nat) : Word := packPayload ((payload.drop (4 * q)).take 4)

/-- R37: a state whose PAYLOAD words are those of a payload holds its bytes. -/
theorem State.take_payloadBytes_of_words {s : State} {payload : List Byte} (short : payload.length ≤ 16)
    (words : ∀ i < (payload.length + 3) / 4, s.payloadWord i = payloadWordOf payload i) :
    s.payloadBytes.take payload.length = payload := by
  rw [State.take_payloadBytes s short]
  refine List.ext_getElem (by simp) fun j inside inPayload => ?_
  have inWord : j % 4 < 4 := Nat.mod_lt _ (by decide)
  have place : 4 * (j / 4) + j % 4 = j := Nat.div_add_mod j 4
  rw [List.getElem_map, List.getElem_range, State.payloadByte_eq s (by omega), words (j / 4) (by omega), payloadWordOf,
    extractLsb'_packPayload _ inWord, List.getD_eq_getElem?_getD, List.getElem?_take_of_lt inWord, List.getElem?_drop,
    place, List.getElem?_eq_getElem inPayload, Option.getD_some]

/-- Settles O51: the PAYLOAD writes leave the payload's words (`afterTurns_payloadTurns`), ARG0 its opcode and length
(`sendArg0_opcode`, `sendArg0_length`), and the SENDCMD latches them. -/
theorem sendProgramLatchesItsPayload : Obligations.SendProgramLatchesItsPayload := by
  intro s op payload short idle
  let p : SendPayload := ⟨payload, short⟩
  obtain ⟨words, _, _, _, _, _, frame⟩ :=
    afterTurns_payloadTurns (payloadWordOf payload) s (q := (payload.length + 3) / 4) (by omega)
  let buffered := afterTurns (payloadTurns (payloadWordOf payload) ((payload.length + 3) / 4)) s
  let loaded : State := { buffered with arg0 := sendArg0 op p, response := some ⟨.okay, 0#32⟩ }
  have length : loaded.payloadLength = payload.length := sendArg0_length op p
  have stillIdle : loaded.framerJob = none := (congrArg State.framerJob frame).trans idle
  have sticky : loaded.sticky = s.sticky := (congrArg State.sticky frame :)
  have operands : loaded.sendcmdOperands = .sendcmd op payload := by
    have bytes : loaded.payloadBytes.take payload.length = payload :=
      State.take_payloadBytes_of_words (s := buffered) short words
    rw [State.sendcmdOperands, length, bytes]
    exact congrArg (FramerCmd.sendcmd · payload) (sendArg0_opcode op p)
  have issued : afterAccess (commandWrite (encode .sendcmd)) loaded =
      { loaded with framerJob := some { cmd := .sendcmd op payload, m := 0, pending := none } } := by
    rw [afterAccess_commandWrite loaded ((decode_eq_ok_iff _ _).mpr rfl)]
    show afterExec .sendcmd loaded = _
    rw [afterExec_sendcmd (length.trans_le short), operands, acceptFramer_of_idle stillIdle]
    rfl
  have program : afterTurns ((sendProgram op p).map .host) s =
      afterAccess (commandWrite (encode .sendcmd)) loaded := by
    have load : afterAccess (writeAccess .arg0 (sendArg0 op p)) buffered = loaded :=
      afterAccess_writeAccess buffered .arg0 _
    rw [← load]
    simp only [sendProgram, commandProgram, List.map_append, List.map_map, List.append_assoc, afterTurns_append]
    rfl
  exact ⟨_, runTurns_eq _ s, by rw [program, issued], by rw [program, issued]; exact sticky⟩

/-! ## Block reset -/

/-- The canonical memory of the first n bytes of f. -/
theorem Memory.read_ofCells_range (f : Nat → Byte) {n : Nat} (inFb : n ≤ Config.fbBytes) (j : Nat) :
    (Memory.ofCells ((List.range n).map fun i => (i, f i))).read j = if j < n then f j else Memory.unlisted := by
  induction n with
  | zero => rfl
  | succ n ih =>
    have cells := Memory.ofCells_wf ((List.range n).map fun i => (i, f i))
    have last : Memory.ofCells ((List.range (n + 1)).map fun i => (i, f i)) =
        (Memory.ofCells ((List.range n).map fun i => (i, f i))).write n (f n) := by
      rw [Memory.ofCells, List.range_succ, List.map_append, List.foldl_append]
      exact if_pos inFb
    rw [last, Memory.read_write cells.1, ih (Nat.le_of_succ_le inFb)]
    by_cases here : j = n
    · rw [if_pos here, here, if_pos (Nat.lt_succ_self n)]
    · have same : j < n ↔ j < n + 1 := by omega
      rw [if_neg here]
      simp only [same]

/-- R280: what a block reset leaves. -/
theorem State.blockReset_frame (s : State) (fill : List Host.Cell) :
    s.blockReset fill =
      { State.reset with fb := (s.blockReset fill).fb, trace := s.trace ++ [.reset], agenda := s.agenda } := rfl

theorem State.blockReset_fb (s : State) (fill : List Host.Cell) : (s.blockReset fill).fb = Memory.ofCells fill := rfl

/-- Settles O59: the fill that lists every byte (`Memory.read_ofCells_range`). -/
theorem blockResetAdmitsEveryFramebuffer : Obligations.BlockResetAdmitsEveryFramebuffer := by
  intro f
  refine ⟨(List.range Config.fbBytes).map fun i => (i, f i), fun s => ?_⟩
  refine ⟨s.blockReset _, runTurns_eq _ s, fun i inFb => ?_, s.blockReset_frame _⟩
  rw [State.blockReset_fb, Memory.read_ofCells_range f le_rfl, if_pos inFb]

end Sys2Proof.Machine
end
